-- ==== Sys2Proof/Word.lean ====
section
/-! DEFINITION. The widths of the CHIP-8 core: bytes, 16-bit words, 12-bit and 4-bit instruction fields,
register indices and elapsed time (spec/00_scope.md R6, R9, R11; spec/10_state.md R20, R38). -/

namespace Sys2Proof

/-- An 8-bit unsigned value: a general register, a memory cell, the `nn` field (R20, R25, R91). -/
abbrev Byte := BitVec 8

/-- A 16-bit value: an instruction word, `I`, `PC`, a stack entry (R22, R23, R24, R90). -/
abbrev Word := BitVec 16

/-- The 12-bit `nnn` field: a byte address (R91, R93). -/
abbrev Addr12 := BitVec 12

/-- The 4-bit `n` field: a number of sprite rows (R91, R93). -/
abbrev Nibble := BitVec 4

/-- The index of a general register `V0`..`VF` (R20, R94). -/
abbrev Reg := Fin 16

/-- The register that doubles as the carry, not-borrow, shifted-out and collision flag (R21). -/
abbrev VF : Reg := 15

/-- A non-negative rational number of seconds (R38: the type of `elapsed`). -/
abbrev Seconds := { q : Rat // 0 ≤ q }

/-- A snapshot of the 16 logical keys: element `k` is true when key `k` is pressed (R38, R200). -/
abbrev Keys := Vector Bool 16

end Sys2Proof
end

