-- ==== Sys2Proof/Syntax.lean ====
section
/-! DEFINITION. The instruction set: one constructor for each of the 35 rows of spec/opcode_table.json,
in the table's order (spec/30_encoding.md R92, R96). The fields are those of R91. -/

namespace Sys2Proof

/-- The 35 instructions of R96. A word that matches no row (R98) is no `Instr`: the decoder rejects it. -/
inductive Instr where
  /-- `0NNN`, `SYS nnn`: behaves as an unrecognized word (R130). -/
  | sys (nnn : Addr12)
  /-- `00E0`, `CLS` (R185). -/
  | cls
  /-- `00EE`, `RET` (R121). -/
  | ret
  /-- `1NNN`, `JP nnn` (R122). -/
  | jp (nnn : Addr12)
  /-- `2NNN`, `CALL nnn` (R123). -/
  | call (nnn : Addr12)
  /-- `3XNN`, `SE Vx, nn` (R124). -/
  | seImm (x : Reg) (nn : Byte)
  /-- `4XNN`, `SNE Vx, nn` (R125). -/
  | sneImm (x : Reg) (nn : Byte)
  /-- `5XY_`, `SE Vx, Vy`; the low nibble is ignored (R107, R126). -/
  | seReg (x y : Reg)
  /-- `6XNN`, `LD Vx, nn` (R142). -/
  | ldImm (x : Reg) (nn : Byte)
  /-- `7XNN`, `ADD Vx, nn` (R143). -/
  | addImm (x : Reg) (nn : Byte)
  /-- `8XY0`, `LD Vx, Vy` (R144). -/
  | ldReg (x y : Reg)
  /-- `8XY1`, `OR Vx, Vy` (R145). -/
  | orReg (x y : Reg)
  /-- `8XY2`, `AND Vx, Vy` (R146). -/
  | andReg (x y : Reg)
  /-- `8XY3`, `XOR Vx, Vy` (R147). -/
  | xorReg (x y : Reg)
  /-- `8XY4`, `ADD Vx, Vy` (R148). -/
  | addReg (x y : Reg)
  /-- `8XY5`, `SUB Vx, Vy` (R149). -/
  | sub (x y : Reg)
  /-- `8X_6`, `SHR Vx`; the `y` field is ignored (R107, R150). -/
  | shr (x : Reg)
  /-- `8XY7`, `SUBN Vx, Vy` (R151). -/
  | subn (x y : Reg)
  /-- `8X_E`, `SHL Vx`; the `y` field is ignored (R107, R152). -/
  | shl (x : Reg)
  /-- `9XY_`, `SNE Vx, Vy`; the low nibble is ignored (R107, R127). -/
  | sneReg (x y : Reg)
  /-- `ANNN`, `LD I, nnn` (R161). -/
  | ldI (nnn : Addr12)
  /-- `BNNN`, `JP V0, nnn` (R128). -/
  | jpV0 (nnn : Addr12)
  /-- `CXNN`, `RND Vx, nn` (R208). -/
  | rnd (x : Reg) (nn : Byte)
  /-- `DXYN`, `DRW Vx, Vy, n` (R186). -/
  | drw (x y : Reg) (n : Nibble)
  /-- `EX9E`, `SKP Vx` (R201). -/
  | skp (x : Reg)
  /-- `EXA1`, `SKNP Vx` (R202). -/
  | sknp (x : Reg)
  /-- `FX07`, `LD Vx, DT` (R205). -/
  | ldVxDt (x : Reg)
  /-- `FX0A`, `LD Vx, K` (R203). -/
  | ldVxK (x : Reg)
  /-- `FX15`, `LD DT, Vx` (R206). -/
  | ldDtVx (x : Reg)
  /-- `FX18`, `LD ST, Vx` (R207). -/
  | ldStVx (x : Reg)
  /-- `FX1E`, `ADD I, Vx` (R162). -/
  | addI (x : Reg)
  /-- `FX29`, `LD F, Vx` (R163). -/
  | ldF (x : Reg)
  /-- `FX33`, `LD B, Vx` (R164). -/
  | ldB (x : Reg)
  /-- `FX55`, `LD [I], Vx` (R165). -/
  | ldMemVx (x : Reg)
  /-- `FX65`, `LD Vx, [I]` (R166). -/
  | ldVxMem (x : Reg)
deriving DecidableEq, Repr

end Sys2Proof
end

