-- ==== Sys2Proof/WellFormed.lean ====
section
/-! DEFINITION. Which instruction terms stand for words of the machine. Every field already has the width
the encoding gives it; the one check left is that of `SYS`, whose row of the opcode map is taken only when
neither `CLS` nor `RET` matches (spec/30_encoding.md R96, R99). -/

namespace Sys2Proof

/-- `0x0E0` and `0x0EE` are no operand of `SYS`: those words are `CLS` and `RET` (R95, R96). -/
def sysOperandOk (nnn : Addr12) : Bool := nnn != 0x0E0 && nnn != 0x0EE

/-- The instruction is the reading of some word (R95, R96). -/
def Instr.wellFormed : Instr → Bool
  | .sys nnn     => sysOperandOk nnn
  | .cls         => true
  | .ret         => true
  | .jp _        => true
  | .call _      => true
  | .seImm _ _   => true
  | .sneImm _ _  => true
  | .seReg _ _   => true
  | .ldImm _ _   => true
  | .addImm _ _  => true
  | .ldReg _ _   => true
  | .orReg _ _   => true
  | .andReg _ _  => true
  | .xorReg _ _  => true
  | .addReg _ _  => true
  | .sub _ _     => true
  | .shr _       => true
  | .subn _ _    => true
  | .shl _       => true
  | .sneReg _ _  => true
  | .ldI _       => true
  | .jpV0 _      => true
  | .rnd _ _     => true
  | .drw _ _ _   => true
  | .skp _       => true
  | .sknp _      => true
  | .ldVxDt _    => true
  | .ldVxK _     => true
  | .ldDtVx _    => true
  | .ldStVx _    => true
  | .addI _      => true
  | .ldF _       => true
  | .ldB _       => true
  | .ldMemVx _   => true
  | .ldVxMem _   => true

end Sys2Proof
end

