-- ==== Sys2Proof/Decode.lean ====
section
/-! DEFINITION. Decoding and encoding of instruction words (spec/30_encoding.md R90 to R99, R107). The bit
patterns are the spec's table R96; 27 of them are general knowledge there (assumption log 12). -/

namespace Sys2Proof

/-- The two fetched bytes as one word, the byte of the lower address in the high half (R63, R90). -/
def wordOfBytes (b0 b1 : Byte) : Word := b0 ++ b1

/-- The high-order byte of a word, stored at the lower address (R90). -/
def highByte (w : Word) : Byte := w.extractLsb' 8 8

/-- The low-order byte of a word, stored at the higher address (R90). -/
def lowByte (w : Word) : Byte := w.extractLsb' 0 8

/-- `op`, bits 15:12 (R91). -/
def fieldOp (w : Word) : Nibble := w.extractLsb' 12 4

/-- `x`, bits 11:8, as a register index (R91, R94). -/
def fieldX (w : Word) : Reg := (w.extractLsb' 8 4).toFin

/-- `y`, bits 7:4, as a register index (R91, R94). -/
def fieldY (w : Word) : Reg := (w.extractLsb' 4 4).toFin

/-- `n`, bits 3:0 (R91). -/
def fieldN (w : Word) : Nibble := w.extractLsb' 0 4

/-- `nn`, bits 7:0 (R91). -/
def fieldNN (w : Word) : Byte := w.extractLsb' 0 8

/-- `nnn`, bits 11:0 (R91). -/
def fieldNNN (w : Word) : Addr12 := w.extractLsb' 0 12

/-- Why a word is no instruction of the map: the family whose selector it does not have (R98). The
machine reports such a word and goes on (R129); the rejection stops nothing. -/
inductive DecodeReject where
  /-- `8XYn` with a low nibble that no operation of family 8 has. -/
  | noSuchFamily8 (w : Word)
  /-- `EXnn` with a low byte other than `9E`, `A1`. -/
  | noSuchFamilyE (w : Word)
  /-- `FXnn` with a low byte that no operation of family F has. -/
  | noSuchFamilyF (w : Word)
deriving DecidableEq, Repr

/-- Family 0 is decoded on the whole word (R95, R99). -/
def decodeFamily0 (w : Word) : Instr :=
  if w = 0x00E0 then .cls else if w = 0x00EE then .ret else .sys (fieldNNN w)

/-- Family 8 is selected on the low nibble (R95). -/
def decodeFamily8 (w : Word) : Except DecodeReject Instr :=
  match (fieldN w).toNat with
  | 0x0 => .ok (.ldReg (fieldX w) (fieldY w))
  | 0x1 => .ok (.orReg (fieldX w) (fieldY w))
  | 0x2 => .ok (.andReg (fieldX w) (fieldY w))
  | 0x3 => .ok (.xorReg (fieldX w) (fieldY w))
  | 0x4 => .ok (.addReg (fieldX w) (fieldY w))
  | 0x5 => .ok (.sub (fieldX w) (fieldY w))
  | 0x6 => .ok (.shr (fieldX w))
  | 0x7 => .ok (.subn (fieldX w) (fieldY w))
  | 0xE => .ok (.shl (fieldX w))
  | _   => .error (.noSuchFamily8 w)

/-- Family E is selected on the low byte (R95). -/
def decodeFamilyE (w : Word) : Except DecodeReject Instr :=
  match (fieldNN w).toNat with
  | 0x9E => .ok (.skp (fieldX w))
  | 0xA1 => .ok (.sknp (fieldX w))
  | _    => .error (.noSuchFamilyE w)

/-- Family F is selected on the low byte (R95). -/
def decodeFamilyF (w : Word) : Except DecodeReject Instr :=
  match (fieldNN w).toNat with
  | 0x07 => .ok (.ldVxDt (fieldX w))
  | 0x0A => .ok (.ldVxK (fieldX w))
  | 0x15 => .ok (.ldDtVx (fieldX w))
  | 0x18 => .ok (.ldStVx (fieldX w))
  | 0x1E => .ok (.addI (fieldX w))
  | 0x29 => .ok (.ldF (fieldX w))
  | 0x33 => .ok (.ldB (fieldX w))
  | 0x55 => .ok (.ldMemVx (fieldX w))
  | 0x65 => .ok (.ldVxMem (fieldX w))
  | _    => .error (.noSuchFamilyF w)

/-- The decode procedure of R95, total on all 65536 words. The last arm is the high nibble `F`. -/
def decodeWord (w : Word) : Except DecodeReject Instr :=
  match (fieldOp w).toNat with
  | 0x0 => .ok (decodeFamily0 w)
  | 0x1 => .ok (.jp (fieldNNN w))
  | 0x2 => .ok (.call (fieldNNN w))
  | 0x3 => .ok (.seImm (fieldX w) (fieldNN w))
  | 0x4 => .ok (.sneImm (fieldX w) (fieldNN w))
  | 0x5 => .ok (.seReg (fieldX w) (fieldY w))
  | 0x6 => .ok (.ldImm (fieldX w) (fieldNN w))
  | 0x7 => .ok (.addImm (fieldX w) (fieldNN w))
  | 0x8 => decodeFamily8 w
  | 0x9 => .ok (.sneReg (fieldX w) (fieldY w))
  | 0xA => .ok (.ldI (fieldNNN w))
  | 0xB => .ok (.jpV0 (fieldNNN w))
  | 0xC => .ok (.rnd (fieldX w) (fieldNN w))
  | 0xD => .ok (.drw (fieldX w) (fieldY w) (fieldN w))
  | 0xE => decodeFamilyE w
  | _   => decodeFamilyF w

/-- The decoder on the two bytes of an instruction in memory order (R63, R90). -/
def decodeBytes (b0 b1 : Byte) : Except DecodeReject Instr := decodeWord (wordOfBytes b0 b1)

/-- The bits of a register field (R91, R94). -/
def regBits (r : Reg) : Nibble := BitVec.ofFin r

/-- Format `NNN` of R92: `op` then `nnn`. -/
def formNNN (op : Nibble) (nnn : Addr12) : Word := op ++ nnn

/-- Format `XNN` of R92 (and `X`, whose low byte is a selector): `op`, `x`, `nn`. -/
def formXNN (op : Nibble) (x : Reg) (nn : Byte) : Word := op ++ regBits x ++ nn

/-- Format `XYN` of R92 (and `XY`, whose low nibble is a selector or zero): `op`, `x`, `y`, `n`. -/
def formXYN (op : Nibble) (x y : Reg) (n : Nibble) : Word := op ++ regBits x ++ regBits y ++ n

/-- The canonical word of an instruction, by the table of R96; ignored bits are zero (R107). -/
def encode : Instr → Word
  | .sys nnn     => formNNN 0x0 nnn
  | .cls         => 0x00E0
  | .ret         => 0x00EE
  | .jp nnn      => formNNN 0x1 nnn
  | .call nnn    => formNNN 0x2 nnn
  | .seImm x nn  => formXNN 0x3 x nn
  | .sneImm x nn => formXNN 0x4 x nn
  | .seReg x y   => formXYN 0x5 x y 0x0
  | .ldImm x nn  => formXNN 0x6 x nn
  | .addImm x nn => formXNN 0x7 x nn
  | .ldReg x y   => formXYN 0x8 x y 0x0
  | .orReg x y   => formXYN 0x8 x y 0x1
  | .andReg x y  => formXYN 0x8 x y 0x2
  | .xorReg x y  => formXYN 0x8 x y 0x3
  | .addReg x y  => formXYN 0x8 x y 0x4
  | .sub x y     => formXYN 0x8 x y 0x5
  | .shr x       => formXYN 0x8 x 0 0x6
  | .subn x y    => formXYN 0x8 x y 0x7
  | .shl x       => formXYN 0x8 x 0 0xE
  | .sneReg x y  => formXYN 0x9 x y 0x0
  | .ldI nnn     => formNNN 0xA nnn
  | .jpV0 nnn    => formNNN 0xB nnn
  | .rnd x nn    => formXNN 0xC x nn
  | .drw x y n   => formXYN 0xD x y n
  | .skp x       => formXNN 0xE x 0x9E
  | .sknp x      => formXNN 0xE x 0xA1
  | .ldVxDt x    => formXNN 0xF x 0x07
  | .ldVxK x     => formXNN 0xF x 0x0A
  | .ldDtVx x    => formXNN 0xF x 0x15
  | .ldStVx x    => formXNN 0xF x 0x18
  | .addI x      => formXNN 0xF x 0x1E
  | .ldF x       => formXNN 0xF x 0x29
  | .ldB x       => formXNN 0xF x 0x33
  | .ldMemVx x   => formXNN 0xF x 0x55
  | .ldVxMem x   => formXNN 0xF x 0x65

/-- The row of the opcode map R96 for an instruction, as (mask, match): a word `w` is of the row when
`w & mask = match`. -/
def Instr.row : Instr → Word × Word
  | .sys _         => (0xF000, 0x0000)
  | .cls           => (0xFFFF, 0x00E0)
  | .ret           => (0xFFFF, 0x00EE)
  | .jp _          => (0xF000, 0x1000)
  | .call _        => (0xF000, 0x2000)
  | .seImm _ _     => (0xF000, 0x3000)
  | .sneImm _ _    => (0xF000, 0x4000)
  | .seReg _ _     => (0xF000, 0x5000)
  | .ldImm _ _     => (0xF000, 0x6000)
  | .addImm _ _    => (0xF000, 0x7000)
  | .ldReg _ _     => (0xF00F, 0x8000)
  | .orReg _ _     => (0xF00F, 0x8001)
  | .andReg _ _    => (0xF00F, 0x8002)
  | .xorReg _ _    => (0xF00F, 0x8003)
  | .addReg _ _    => (0xF00F, 0x8004)
  | .sub _ _       => (0xF00F, 0x8005)
  | .shr _         => (0xF00F, 0x8006)
  | .subn _ _      => (0xF00F, 0x8007)
  | .shl _         => (0xF00F, 0x800E)
  | .sneReg _ _    => (0xF000, 0x9000)
  | .ldI _         => (0xF000, 0xA000)
  | .jpV0 _        => (0xF000, 0xB000)
  | .rnd _ _       => (0xF000, 0xC000)
  | .drw _ _ _     => (0xF000, 0xD000)
  | .skp _         => (0xF0FF, 0xE09E)
  | .sknp _        => (0xF0FF, 0xE0A1)
  | .ldVxDt _      => (0xF0FF, 0xF007)
  | .ldVxK _       => (0xF0FF, 0xF00A)
  | .ldDtVx _      => (0xF0FF, 0xF015)
  | .ldStVx _      => (0xF0FF, 0xF018)
  | .addI _        => (0xF0FF, 0xF01E)
  | .ldF _         => (0xF0FF, 0xF029)
  | .ldB _         => (0xF0FF, 0xF033)
  | .ldMemVx _     => (0xF0FF, 0xF055)
  | .ldVxMem _     => (0xF0FF, 0xF065)

/-- The reading of an instruction of `nbits` bits numbered from the least significant bit of its one
16-bit word (R9, R90): the word is laid out as memory holds it, high byte first, and decoded. -/
def decodeTableWord (nbits w : Nat) : Option Instr :=
  let word : Word := BitVec.ofNat 16 (w % 2 ^ nbits)
  match decodeBytes (highByte word) (lowByte word) with
  | .ok i    => some i
  | .error _ => none

end Sys2Proof
end

