-- ==== Sys2Proof/Config.lean ====
section
/-! DEFINITION. What the spec fixes for the machine as a whole (spec/00_scope.md R6, R7), and what the
environment supplies to each step (spec/10_state.md R38), left uninterpreted where no schedule is given. -/

namespace Sys2Proof

/-- Bytes of memory, `MEM_SIZE` (R6). -/
abbrev Config.memSize : Nat := 4096

/-- Entries the call stack can hold, `STACK_DEPTH` (R6; a hard bound by the spec's decision D5). -/
abbrev Config.stackDepth : Nat := 16

/-- Load address of the program image and reset value of `PC`, `PROG_BASE` (R6). -/
abbrev Config.progBase : Nat := 0x200

/-- The largest program image in bytes, `MAX_IMAGE` (R6). -/
abbrev Config.maxImage : Nat := 3584

/-- Address of the glyph table, `FONT_BASE` (R6). -/
abbrev Config.fontBase : Nat := 0x000

/-- Bytes of one glyph, `GLYPH_BYTES` (R6). -/
abbrev Config.glyphBytes : Nat := 5

/-- Decay rate of both timers in units a second, `TIMER_RATE_HZ` (R6, R7). -/
abbrev Config.timerRateHz : Rat := 60

/-- Default reset value of the delay timer, `initial_delay_timer` (R7). -/
abbrev Config.initialDelayTimer : Byte := 0

/-- Default reset value of the sound timer, `initial_sound_timer` (R7). -/
abbrev Config.initialSoundTimer : Byte := 0

/-- What the environment supplies to one step (R8, R38): the key snapshot, the wall-clock time since the
previous step and the byte of the random source. -/
structure StepInput where
  /-- Key `k` is pressed when element `k` is true (R38, R200). -/
  keys    : Keys
  /-- Seconds since the previous step; any non-negative value, the first step included (R38, R265). -/
  elapsed : Seconds
  /-- The random byte; read by `RND` only (R38, R208, R209). -/
  rand    : Byte
deriving DecidableEq, Repr, Inhabited

/-- FREE VALUE: the inputs of step number `n` where the state lists no scheduled input. No law constrains
them (R209, spec/93_implementation_defined.md U4 to U6); the constant has no body. Assumption log 1. -/
opaque Config.freeInput : Nat → StepInput

end Sys2Proof
end

