-- ==== Sys2Proof/Machine/State.lean ====
section
/-! DEFINITION. The state of the CHIP-8 core, every item of spec/10_state.md R33, as plain data, the reasons
a step can stop or halt, and the machine right after reset (R40). -/

namespace Sys2Proof.Machine

/-- A fatal fault with the `pc` it records (R225, R235). A fault is TAKEN as R228 describes it: the machine
goes to a halted next state that holds the fault in `State.fault`, and stays there. So no step of this
model answers `Outcome.fault`; these are the causes a halted state records. Safe (assumption logs 3, 8). -/
inductive Fault where
  /-- Code 1, raised by `RET` when the stack is empty; records the address of the `RET` (R121, R226). Safe. -/
  | stackUnderflow (pc : Word)
  /-- Code 2, raised by `CALL` when the stack holds 16 entries; records the address of the `CALL` (R123,
  R227). The fault is the spec's decision D5: unsafe of hardware whose stack grows (assumption log 8). -/
  | stackOverflow (pc : Word)
deriving DecidableEq, Repr

/-- Why a step has no next state. -/
inductive Refusal where
  /-- Raised by the dispatcher for an instruction with no meaning yet; no arm does. Safe. -/
  | notModelled (mnemonic : String)
  /-- Code 4, raised by `SKP` and `SKNP` when `V[x] > 15`; carries `pc` and `V[x]` (R201, R202, R232). Safe:
  the spec gives the step no defined result (assumption log 4). -/
  | keyIndexOutOfRange (pc : Word) (index : Byte)
deriving DecidableEq, Repr

/-- The non-fatal report `UnknownInstruction(pc, word)`, code 3, an output of the step (R225, R231). -/
structure UnknownInstruction where
  /-- The address of the unrecognized word. -/
  pc   : Word
  /-- The unrecognized word. -/
  word : Word
deriving DecidableEq, Repr

/-- The labels R225 gives the fatal faults. -/
def Fault.code : Fault → Nat
  | .stackUnderflow _ => 1
  | .stackOverflow _  => 2

/-- One countdown timer: the 8-bit observable value and the exact accumulator behind it (R29, R30). -/
structure Timer where
  /-- `DTacc` or `STacc`: an exact rational (R30; the spec's decision D9, assumption log 11). -/
  acc : Rat
  /-- `DT` or `ST`: the observable 8-bit value (R29). -/
  val : Byte
deriving DecidableEq, Repr

/-- `Timer.set(value)`: both the accumulator and the observable value become `value` (R222). -/
def Timer.ofByte (value : Byte) : Timer := { acc := value.toNat, val := value }

/-- The 4096 bytes of memory as the (address, byte) pairs that differ from the reset contents (R25). -/
abbrev Memory := List Host.Cell

/-- The display: 32 rows of 64 pixels, `fb[y][x]`, true when lit (R26). -/
abbrev Framebuffer := Vector (Vector Bool 64) 32

/-- The display with every pixel unlit (R40, R180). -/
def Framebuffer.blank : Framebuffer := Vector.replicate 32 (Vector.replicate 64 false)

/-- Everything the spec gives the machine (R33), and three fields of the model's own at the end. -/
structure State where
  /-- `V[0]`..`V[15]` (R20); `V[15]` is the flag register `VF` (R21). -/
  v        : Vector Byte 16
  /-- The index register `I`, 12 significant bits (R22). -/
  i        : Word
  /-- The program counter, 12 significant bits (R23). -/
  pc       : Word
  /-- The call stack, oldest return address first (R24). -/
  stack    : List Word
  /-- The memory (R25). -/
  mem      : Memory
  /-- The display buffer (R26). -/
  fb       : Framebuffer
  /-- Set by every `CLS` and `DRW`, cleared by the host (R28). -/
  dirty    : Bool
  /-- The delay timer, `DT` and `DTacc` (R29, R30). -/
  dt       : Timer
  /-- The sound timer, `ST` and `STacc` (R29, R30). -/
  st       : Timer
  /-- The machine is awaiting a key (R31). -/
  wait     : Bool
  /-- The register that will receive the key (R31). -/
  waitX    : Reg
  /-- The key snapshot of the previous poll (R31). -/
  prevKeys : Keys
  /-- A fatal fault has occurred (R32). -/
  halted   : Bool
  /-- The recorded cause of the halt (R32, R228). -/
  fault    : Option Fault
  /-- The model's own: the report of the latest step, an output (R39, R231; assumption log 2). -/
  report   : Option UnknownInstruction
  /-- The model's own: scheduled inputs of the coming steps, the next step's first (R38; assumption log 1). -/
  inputs   : List StepInput
  /-- The model's own: the number of steps taken, to which the free inputs are applied (assumption log 1). -/
  stepNo   : Nat
deriving DecidableEq, Repr

/-- `sp`, the number of entries on the stack (R24). -/
def State.sp (s : State) : Nat := s.stack.length

/-- The machine right after construction, with the default configuration and an empty image (R40, R260,
R261). The memory lists nothing: unlisted addresses read as their reset contents. -/
def State.reset : State where
  v        := Vector.replicate 16 0
  i        := 0x0000
  pc       := 0x0200
  stack    := []
  mem      := []
  fb       := Framebuffer.blank
  dirty    := false
  dt       := Timer.ofByte Config.initialDelayTimer
  st       := Timer.ofByte Config.initialSoundTimer
  wait     := false
  waitX    := 0
  prevKeys := Vector.replicate 16 false
  halted   := false
  fault    := none
  report   := none
  inputs   := []
  stepNo   := 0

end Sys2Proof.Machine
end

