-- ==== Sys2Proof/Machine/Operands.lean ====
section
/-! DEFINITION. The operand forms of the instructions: effective addresses, the skip and jump targets, the
key index, the glyph address and the decimal digits (spec/20_memory.md R61, spec/30_encoding.md R93, R94,
spec/42_index_memory.md R163, R164, R167). -/

namespace Sys2Proof.Machine

/-- `trunc_12`: the low 12 bits (R11). -/
def trunc12 (a : Word) : Word := a &&& 0x0FFF

/-- `trunc_8` of a number: reduction modulo 256 (R11, R140, R154). -/
def trunc8 (n : Nat) : Byte := BitVec.ofNat 8 n

/-- `EA(a)`: the index into memory of a computed address (R61). -/
def ea (a : Word) : Nat := (trunc12 a).toNat

/-- The address of the `k`-th byte an instruction touches through a base address (R167). -/
def offsetAddr (base : Word) (k : Nat) : Word := base + BitVec.ofNat 16 k

/-- An `nnn` operand as an address: unsigned, not scaled (R93). -/
def immAddr (nnn : Addr12) : Word := nnn.setWidth 16

/-- The target of `JP V0, nnn` before the mask (R128). -/
def indexedTarget (nnn : Addr12) (v0 : Byte) : Word := immAddr nnn + v0.setWidth 16

/-- The logical key a register value names; none above 15 (R200, R232). -/
def keyIndex (b : Byte) : Option (Fin 16) :=
  if h : b.toNat < 16 then some ⟨b.toNat, h⟩ else none

/-- The address of glyph `b`: `FONT_BASE + 5 * b`, the whole 8-bit value (R163; decision D25, log 15). -/
def glyphAddr (b : Byte) : Word :=
  trunc12 (BitVec.ofNat 16 (Config.fontBase + Config.glyphBytes * b.toNat))

/-- The hundreds, tens and ones of a register value, one to a byte (R164). -/
def bcdDigits (b : Byte) : List Byte :=
  [trunc8 (b.toNat / 100), trunc8 (b.toNat / 10 % 10), trunc8 (b.toNat % 10)]

end Sys2Proof.Machine
end

