-- ==== Sys2Proof/Machine/Flags.lean ====
section
/-! DEFINITION. The values `VF` receives as a flag, one function for each row of the table of
spec/10_state.md R21 (spec/41_alu.md R140, spec/42_index_memory.md R162, spec/43_display.md R186). -/

namespace Sys2Proof.Machine

/-- A flag value: `0x01` or `0x00`, never anything else (R21). -/
def flagByte (b : Bool) : Byte := if b then 0x01 else 0x00

/-- `ADD Vx, Vy`: 1 when the sum exceeds 255 (R148). -/
def carryFlag (a b : Byte) : Byte := flagByte (decide (255 < a.toNat + b.toNat))

/-- `a - b`: 1 when there is no borrow, that is `a >= b` (R140, R149, R151). -/
def notBorrowFlag (a b : Byte) : Byte := flagByte (decide (b.toNat ≤ a.toNat))

/-- `SHR`: bit 0 before the shift (R150). -/
def shiftRightFlag (a : Byte) : Byte := flagByte (a.getLsbD 0)

/-- `SHL`: bit 7 before the shift (R152). -/
def shiftLeftFlag (a : Byte) : Byte := flagByte (a.getLsbD 7)

/-- `I + Vx` before truncation (R162). -/
def indexSum (i : Word) (b : Byte) : Nat := i.toNat + b.toNat

/-- `ADD I, Vx`: 1 when the sum exceeds `0xFFF` (R162). -/
def indexOverflowFlag (i : Word) (b : Byte) : Byte := flagByte (decide (0xFFF < indexSum i b))

/-- `DRW`: 1 when the draw turned a lit pixel off (R183, R186). -/
def collisionFlag (hit : Bool) : Byte := flagByte hit

end Sys2Proof.Machine
end

