-- ==== Sys2Proof/Machine/Ops.lean ====
section
/-! DEFINITION. The named operations over memory, registers, stack, program counter, timers, keys and the
halted state that the meanings are written with (spec/20_memory.md, spec/10_state.md,
spec/60_exceptions.md R220 to R232). -/

namespace Sys2Proof.Machine

/-! ### Memory -/

/-- The 80 bytes of the glyph table, `FONT`: 16 glyphs of 5 bytes (R263; the bytes are the spec's decision
D18 from general knowledge, assumption log 14). -/
def fontTable : List Byte :=
  [0xF0, 0x90, 0x90, 0x90, 0xF0] ++ [0x20, 0x60, 0x20, 0x20, 0x70] ++
  [0xF0, 0x10, 0xF0, 0x80, 0xF0] ++ [0xF0, 0x10, 0xF0, 0x10, 0xF0] ++
  [0x90, 0x90, 0xF0, 0x10, 0x10] ++ [0xF0, 0x80, 0xF0, 0x10, 0xF0] ++
  [0xF0, 0x80, 0xF0, 0x90, 0xF0] ++ [0xF0, 0x10, 0x20, 0x40, 0x40] ++
  [0xF0, 0x90, 0xF0, 0x90, 0xF0] ++ [0xF0, 0x90, 0xF0, 0x10, 0xF0] ++
  [0xF0, 0x90, 0xF0, 0x90, 0x90] ++ [0xE0, 0x90, 0xE0, 0x90, 0xE0] ++
  [0xF0, 0x80, 0x80, 0x80, 0xF0] ++ [0xE0, 0x90, 0x90, 0x90, 0xE0] ++
  [0xF0, 0x80, 0xF0, 0x80, 0xF0] ++ [0xF0, 0x80, 0xF0, 0x80, 0x80]

/-- What an unlisted address reads as: the reset contents, font then zeros (R40, R68). -/
def resetByte (a : Nat) : Byte := fontTable.getD a 0x00

/-- The canonical form: addresses strictly rising and inside the space, no entry equal to the reset
contents of its address. -/
abbrev Memory.wf (m : Memory) : Prop :=
  m.Pairwise (fun c d => c.1 < d.1) ∧ ∀ c ∈ m, c.1 < Config.memSize ∧ c.2 ≠ resetByte c.1

/-- The byte at an address (R62). -/
def Memory.read : Memory → Nat → Byte
  | [], a => resetByte a
  | (k, b) :: rest, a => if a = k then b else Memory.read rest a

/-- The memory without an entry for `a`. -/
def Memory.unlist (m : Memory) (a : Nat) : Memory := m.filter fun c => c.1 != a

/-- An entry put in its place among rising addresses. -/
def Memory.enlist : Memory → Nat → Byte → Memory
  | [], a, b => [(a, b)]
  | (k, c) :: rest, a, b => if a < k then (a, b) :: (k, c) :: rest else (k, c) :: Memory.enlist rest a b

/-- Replace the byte at an address, keeping the canonical form: the reset contents are not listed (R62). -/
def Memory.write (m : Memory) (a : Nat) (b : Byte) : Memory :=
  if b = resetByte a then m.unlist a else (m.unlist a).enlist a b

/-- `Mem[EA(a)]` (R12, R62). -/
def State.readByte (s : State) (a : Word) : Byte := s.mem.read (ea a)

/-- `Mem[EA(a)] <- b` (R12, R62). -/
def State.writeByte (s : State) (a : Word) (b : Byte) : State := { s with mem := s.mem.write (ea a) b }

/-- `MemRead(a, n)` (R12, R62). -/
def State.readBytes (s : State) (a : Word) (n : Nat) : List Byte :=
  (List.range n).map fun k => s.readByte (offsetAddr a k)

/-- `MemWrite(a, n, bytes)`: in rising address order (R12, R62, R65). -/
def State.writeBytes (s : State) (a : Word) : List Byte → State
  | [] => s
  | b :: bs => (s.writeByte a b).writeBytes (a + 1) bs

/-- The instruction word at `PC`: big-endian, the second byte at `EA(PC + 1)` (R63, R100). -/
def State.fetchWord (s : State) : Word := wordOfBytes (s.readByte s.pc) (s.readByte (s.pc + 1))

/-! ### Registers -/

/-- `V[x]` (R10, R20). -/
def State.V (s : State) (x : Reg) : Byte := s.v[x.val]

/-- `V[x] <- b` (R10, R20). -/
def State.setV (s : State) (x : Reg) (b : Byte) : State := { s with v := s.v.set x.val b }

/-- `VF <- flag`, the write that stands last (R21, R141). -/
def State.setFlag (s : State) (flag : Byte) : State := s.setV VF flag

/-- `V[x] <- b`, then `VF <- flag` (R141). -/
def State.setVThenFlag (s : State) (x : Reg) (b flag : Byte) : State := (s.setV x b).setFlag flag

/-- `V[0]`..`V[x]` in rising order (R165). -/
def State.firstRegs (s : State) (x : Reg) : List Byte := s.v.toList.take (x.val + 1)

/-- `V[k] <- Mem[EA(a + k)]` for `k = 0` to `x` (R166). -/
def State.loadRegs (s : State) (x : Reg) (a : Word) : State :=
  { s with v := s.v.mapFinIdx fun k b _ => if k ≤ x.val then s.readByte (offsetAddr a k) else b }

/-- `I <- a` (R160). -/
def State.setI (s : State) (a : Word) : State := { s with i := a }

/-! ### Program counter and stack -/

/-- `PC <- a` (R101). -/
def State.jump (s : State) (a : Word) : State := { s with pc := a }

/-- The default advance `PC <- trunc_12(PC + 2)` (R23, R101). -/
def State.advance (s : State) : State := s.jump (trunc12 (s.pc + 2))

/-- A skip: `PC + 4` when the condition holds, else `PC + 2`, both masked (R101, R124). -/
def State.skipIf (s : State) (condition : Bool) : State :=
  s.jump (trunc12 (s.pc + if condition then 4 else 2))

/-- `stack[sp] <- a; sp <- sp + 1` (R24, R123). -/
def State.push (s : State) (a : Word) : State := { s with stack := s.stack ++ [a] }

/-- `sp <- sp - 1`, the most recent entry removed (R24, R121). -/
def State.pop (s : State) : State := { s with stack := s.stack.dropLast }

/-! ### Faults and reports -/

/-- TAKING A FAULT (R228): nothing is written but `halted` and the recorded cause with the `pc` of the
faulting instruction; `PC` stays on it. There is no return from a fault (R229): no operation clears
`halted`, and the step of a halted machine does nothing. -/
def State.takeFault (s : State) (cause : Word → Fault) : State :=
  { s with halted := true, fault := some (cause s.pc) }

/-- An unrecognized word: `report UnknownInstruction(pc, w); PC <- trunc_12(pc + 2)` (R129, R231). -/
def State.unrecognized (s : State) (w : Word) : State :=
  { s with report := some { pc := s.pc, word := w } }.advance

/-! ### Timers -/

/-- The floor of an accumulator as the 8-bit observable value (R30, R221). -/
def floorByte (q : Rat) : Byte := trunc8 q.floor.toNat

/-- The accumulator after `elapsed` seconds: `max(0, acc - 60 * elapsed)`; one at zero stays there
whatever the time (R221). -/
def decayed (acc : Rat) (elapsed : Seconds) : Rat :=
  if acc = 0 then 0 else max 0 (acc - Config.timerRateHz * elapsed.val)

/-- The tick of one timer (R221). -/
def Timer.tick (t : Timer) (elapsed : Seconds) : Timer :=
  { acc := decayed t.acc elapsed, val := floorByte (decayed t.acc elapsed) }

/-- `Timer.tick(elapsed)` on both timers (R221). -/
def State.tick (s : State) (elapsed : Seconds) : State :=
  { s with dt := s.dt.tick elapsed, st := s.st.tick elapsed }

/-- `Timer.set(delay, value)` (R222). -/
def State.setDelay (s : State) (value : Byte) : State := { s with dt := Timer.ofByte value }

/-- `Timer.set(sound, value)` (R222). -/
def State.setSound (s : State) (value : Byte) : State := { s with st := Timer.ofByte value }

/-! ### Inputs, keys and the wait for a key -/

/-- The inputs of the coming step: the first that is scheduled, else free (R38; assumption log 1). -/
def State.input (s : State) : StepInput :=
  match s.inputs with
  | [] => Config.freeInput s.stepNo
  | first :: _ => first

/-- Logical key `k` is pressed in the snapshot of this step (R200). -/
def State.keyPressed (s : State) (k : Fin 16) : Bool := s.input.keys[k.val]

/-- Entering the awaiting-key state with this step's snapshot as the baseline (R31, R203). -/
def State.awaitKey (s : State) (x : Reg) : State :=
  { s with wait := true, waitX := x, prevKeys := s.input.keys }

/-- The keys pressed in this step's snapshot and not in the previous one, in rising order (R204). -/
def State.newlyPressed (s : State) : List (Fin 16) :=
  (List.finRange 16).filter fun k => s.keyPressed k && !s.prevKeys[k.val]

/-- `prev_keys <- keys`: this step's snapshot becomes the baseline of the next poll (R204). -/
def State.keepKeys (s : State) : State := { s with prevKeys := s.input.keys }

/-- `wait <- false` (R204). -/
def State.endWait (s : State) : State := { s with wait := false }

/-- The poll step: the lowest newly pressed key ends the wait, else the snapshot is kept (R204). -/
def State.pollKeys (s : State) : State :=
  match s.newlyPressed with
  | [] => s.keepKeys
  | k :: _ => (s.setV s.waitX (BitVec.ofNat 8 k.val)).endWait.advance

/-! ### What a step does around the cycle -/

/-- The machine as the next step fetches an instruction: neither halted nor awaiting a key (R220). -/
def State.readyToFetch (s : State) : State := { s with halted := false, fault := none, wait := false }

/-- The output of the previous step is gone when a step begins (R231; assumption log 2). -/
def State.beginStep (s : State) : State := { s with report := none }

/-- The inputs of this step are used up (R38; assumption log 1). -/
def State.nextInput (s : State) : State := { s with inputs := s.inputs.tail, stepNo := s.stepNo + 1 }

/-- The end of a step: the tick, but for a step that faulted (R220, R228). -/
def State.finishStep (s : State) : State :=
  (if s.halted then s else s.tick s.input.elapsed).nextInput

end Sys2Proof.Machine
end

