-- ==== Sys2Proof/Machine/Alu.lean ====
section
/-! DEFINITION. Register load, 8-bit arithmetic and logic (spec/41_alu.md R140 to R154). Operands are read
before `Vx` is written, and `VF` is written last (R141). -/

namespace Sys2Proof.Machine

/-- `LD Vx, nn` (R142). -/
def execLdImm (x : Reg) (nn : Byte) (s : State) : Host.Outcome State Fault Refusal :=
  .next (s.setV x nn).advance

/-- `ADD Vx, nn`: no flag (R143). -/
def execAddImm (x : Reg) (nn : Byte) (s : State) : Host.Outcome State Fault Refusal :=
  .next (s.setV x (trunc8 ((s.V x).toNat + nn.toNat))).advance

/-- `LD Vx, Vy` (R144). -/
def execLdReg (x y : Reg) (s : State) : Host.Outcome State Fault Refusal :=
  .next (s.setV x (s.V y)).advance

/-- `OR Vx, Vy`: no flag (R145). -/
def execOr (x y : Reg) (s : State) : Host.Outcome State Fault Refusal :=
  .next (s.setV x (s.V x ||| s.V y)).advance

/-- `AND Vx, Vy`: no flag (R146). -/
def execAnd (x y : Reg) (s : State) : Host.Outcome State Fault Refusal :=
  .next (s.setV x (s.V x &&& s.V y)).advance

/-- `XOR Vx, Vy`: no flag (R147). -/
def execXor (x y : Reg) (s : State) : Host.Outcome State Fault Refusal :=
  .next (s.setV x (s.V x ^^^ s.V y)).advance

/-- `ADD Vx, Vy`: `VF` is the carry (R148). -/
def execAddReg (x y : Reg) (s : State) : Host.Outcome State Fault Refusal :=
  .next (s.setVThenFlag x (trunc8 ((s.V x).toNat + (s.V y).toNat)) (carryFlag (s.V x) (s.V y))).advance

/-- `SUB Vx, Vy`: `Vx - Vy`, `VF` is the complement of the borrow (R149). -/
def execSub (x y : Reg) (s : State) : Host.Outcome State Fault Refusal :=
  .next (s.setVThenFlag x (s.V x - s.V y) (notBorrowFlag (s.V x) (s.V y))).advance

/-- `SHR Vx`: `VF` is the old bit 0 (R150). -/
def execShr (x : Reg) (s : State) : Host.Outcome State Fault Refusal :=
  .next (s.setVThenFlag x (s.V x >>> 1) (shiftRightFlag (s.V x))).advance

/-- `SUBN Vx, Vy`: `Vy - Vx`, `VF` is the complement of the borrow (R151). -/
def execSubn (x y : Reg) (s : State) : Host.Outcome State Fault Refusal :=
  .next (s.setVThenFlag x (s.V y - s.V x) (notBorrowFlag (s.V y) (s.V x))).advance

/-- `SHL Vx`: `VF` is the old bit 7 (R152). -/
def execShl (x : Reg) (s : State) : Host.Outcome State Fault Refusal :=
  .next (s.setVThenFlag x (s.V x <<< 1) (shiftLeftFlag (s.V x))).advance

end Sys2Proof.Machine
end

