-- ==== Sys2Proof/Machine/Devices.lean ====
section
/-! DEFINITION. The key, timer and random instructions (spec/44_keys_timers_random.md R200 to R209). The
poll step of `LD Vx, K` is `State.pollKeys`. -/

namespace Sys2Proof.Machine

/-- `SKP Vx`: skip when key `V[x]` is pressed; refused when `V[x] > 15` (R201, R232; assumption log 4). -/
def execSkp (x : Reg) (s : State) : Host.Outcome State Fault Refusal :=
  match keyIndex (s.V x) with
  | none   => .refused (.keyIndexOutOfRange s.pc (s.V x))
  | some k => .next (s.skipIf (s.keyPressed k))

/-- `SKNP Vx`: skip when key `V[x]` is not pressed; refused when `V[x] > 15` (R202, R232). -/
def execSknp (x : Reg) (s : State) : Host.Outcome State Fault Refusal :=
  match keyIndex (s.V x) with
  | none   => .refused (.keyIndexOutOfRange s.pc (s.V x))
  | some k => .next (s.skipIf (!s.keyPressed k))

/-- `LD Vx, K`: enter the awaiting-key state, `PC` parked on the instruction (R203). -/
def execLdVxK (x : Reg) (s : State) : Host.Outcome State Fault Refusal :=
  .next (s.awaitKey x)

/-- `LD Vx, DT`: the 8-bit observable value (R205). -/
def execLdVxDt (x : Reg) (s : State) : Host.Outcome State Fault Refusal :=
  .next (s.setV x s.dt.val).advance

/-- `LD DT, Vx` (R206, R222). -/
def execLdDtVx (x : Reg) (s : State) : Host.Outcome State Fault Refusal :=
  .next (s.setDelay (s.V x)).advance

/-- `LD ST, Vx` (R207, R222). -/
def execLdStVx (x : Reg) (s : State) : Host.Outcome State Fault Refusal :=
  .next (s.setSound (s.V x)).advance

/-- `RND Vx, nn`: the random byte of this step masked with `nn` (R208). -/
def execRnd (x : Reg) (nn : Byte) (s : State) : Host.Outcome State Fault Refusal :=
  .next (s.setV x (s.input.rand &&& nn)).advance

end Sys2Proof.Machine
end

