-- ==== Sys2Proof/Machine/Display.lean ====
section
/-! DEFINITION. The display buffer, the sprite blitter, `CLS` and `DRW` (spec/43_display.md R180 to R189). -/

namespace Sys2Proof.Machine

/-- `fb[y][x]` (R26). -/
def Framebuffer.pixel (fb : Framebuffer) (x : Fin 64) (y : Fin 32) : Bool := fb[y.val][x.val]

/-- `fb[y][x] <- not fb[y][x]` (R181). -/
def Framebuffer.flip (fb : Framebuffer) (x : Fin 64) (y : Fin 32) : Framebuffer :=
  fb.set y.val (fb[y.val].set x.val (!fb.pixel x y))

/-- The buffer while a sprite is drawn, and whether a lit pixel has been turned off so far (R181, R183). -/
structure Canvas where
  /-- The pixels so far. -/
  fb  : Framebuffer
  /-- `collision` of R181. -/
  hit : Bool
deriving DecidableEq, Repr

/-- A 1 bit of the sprite over the pixel in column `x`, row `y` (R181, R183). -/
def Canvas.plot (cv : Canvas) (x : Fin 64) (y : Fin 32) : Canvas :=
  { fb := cv.fb.flip x y, hit := cv.hit || cv.fb.pixel x y }

/-- Column `c` of a sprite row: bit `7 - c`, drawn at `x0 + c` when that column is inside the grid
(R181, R184; the bit order is R182, the spec's decision D17, assumption log 13). -/
def Canvas.drawBit (row : Byte) (x0 : Nat) (y : Fin 32) (cv : Canvas) (c : Nat) : Canvas :=
  if h : x0 + c < 64 then
    if row.getLsbD (7 - c) then cv.plot ⟨x0 + c, h⟩ y else cv
  else cv

/-- One sprite row of 8 columns (R181). -/
def Canvas.drawRow (cv : Canvas) (row : Byte) (x0 : Nat) (y : Fin 32) : Canvas :=
  (List.range 8).foldl (Canvas.drawBit row x0 y) cv

/-- The sprite rows from buffer row `py` on; rows below the grid are clipped (R181, R184). -/
def Canvas.drawRows (x0 : Nat) : List Byte → Nat → Canvas → Canvas
  | [], _, cv => cv
  | row :: rows, py, cv =>
    Canvas.drawRows x0 rows (py + 1) (if h : py < 32 then cv.drawRow row x0 ⟨py, h⟩ else cv)

/-- `Display.draw_sprite(x, y, rows)` but for the dirty flag: the origin wraps, the body is clipped
(R181, R184). -/
def Framebuffer.drawSprite (fb : Framebuffer) (x y : Byte) (rows : List Byte) : Canvas :=
  Canvas.drawRows (x.toNat % 64) rows (y.toNat % 32) { fb := fb, hit := false }

/-- A changed or unchanged buffer that is marked dirty (R28, R180, R181). -/
def State.showFrame (s : State) (fb : Framebuffer) : State := { s with fb := fb, dirty := true }

/-- `CLS`: `Display.clear()`, every pixel unlit and the buffer dirty (R180, R185). -/
def execCls (s : State) : Host.Outcome State Fault Refusal :=
  .next (s.showFrame Framebuffer.blank).advance

/-- The canvas `DRW Vx, Vy, n` leaves: `n` bytes from `I` drawn at `(Vx, Vy)` (R186). -/
def State.spriteDraw (s : State) (x y : Reg) (n : Nibble) : Canvas :=
  s.fb.drawSprite (s.V x) (s.V y) (s.readBytes s.i n.toNat)

/-- `DRW Vx, Vy, n`: `VF` is the collision flag, written last (R141, R186). -/
def execDrw (x y : Reg) (n : Nibble) (s : State) : Host.Outcome State Fault Refusal :=
  .next ((s.showFrame (s.spriteDraw x y n).fb).setFlag (collisionFlag (s.spriteDraw x y n).hit)).advance

end Sys2Proof.Machine
end

