-- ==== Sys2Proof/Machine/Flow.lean ====
section
/-! DEFINITION. Control transfer and the unrecognized `SYS` word (spec/40_flow.md R120 to R131). -/

namespace Sys2Proof.Machine

/-- `SYS nnn`: an unrecognized word, the word being `0x0nnn` (R99, R129, R130). -/
def execSys (nnn : Addr12) (s : State) : Host.Outcome State Fault Refusal :=
  .next (s.unrecognized (immAddr nnn))

/-- `RET`: pop into `PC`, not advanced further; `StackUnderflow` on an empty stack (R121, R226). -/
def execRet (s : State) : Host.Outcome State Fault Refusal :=
  match s.stack.getLast? with
  | none   => .next (s.takeFault .stackUnderflow)
  | some a => .next (s.pop.jump a)

/-- `JP nnn` (R122). -/
def execJp (nnn : Addr12) (s : State) : Host.Outcome State Fault Refusal :=
  .next (s.jump (immAddr nnn))

/-- `CALL nnn`: push `trunc_12(pc + 2)` and jump; `StackOverflow` on 16 entries (R123, R227). -/
def execCall (nnn : Addr12) (s : State) : Host.Outcome State Fault Refusal :=
  if Config.stackDepth ≤ s.sp then .next (s.takeFault .stackOverflow)
  else .next ((s.push (trunc12 (s.pc + 2))).jump (immAddr nnn))

/-- `SE Vx, nn` (R124). -/
def execSeImm (x : Reg) (nn : Byte) (s : State) : Host.Outcome State Fault Refusal :=
  .next (s.skipIf (s.V x == nn))

/-- `SNE Vx, nn` (R125). -/
def execSneImm (x : Reg) (nn : Byte) (s : State) : Host.Outcome State Fault Refusal :=
  .next (s.skipIf (s.V x != nn))

/-- `SE Vx, Vy` (R126). -/
def execSeReg (x y : Reg) (s : State) : Host.Outcome State Fault Refusal :=
  .next (s.skipIf (s.V x == s.V y))

/-- `SNE Vx, Vy` (R127). -/
def execSneReg (x y : Reg) (s : State) : Host.Outcome State Fault Refusal :=
  .next (s.skipIf (s.V x != s.V y))

/-- `JP V0, nnn`: the sum is masked, no flag is written (R128). -/
def execJpV0 (nnn : Addr12) (s : State) : Host.Outcome State Fault Refusal :=
  .next (s.jump (trunc12 (indexedTarget nnn (s.V 0))))

end Sys2Proof.Machine
end

