-- ==== Sys2Proof/Machine/Index.lean ====
section
/-! DEFINITION. The index register and the memory transfers through it (spec/42_index_memory.md R160 to
R167). `I` is changed by the first three only. -/

namespace Sys2Proof.Machine

/-- `LD I, nnn` (R161). -/
def execLdI (nnn : Addr12) (s : State) : Host.Outcome State Fault Refusal :=
  .next (s.setI (immAddr nnn)).advance

/-- `ADD I, Vx`: the sum is masked to 12 bits, `VF` says whether it exceeded `0xFFF` (R141, R162). -/
def execAddI (x : Reg) (s : State) : Host.Outcome State Fault Refusal :=
  .next ((s.setI (trunc12 (BitVec.ofNat 16 (indexSum s.i (s.V x))))).setFlag
    (indexOverflowFlag s.i (s.V x))).advance

/-- `LD F, Vx` (R163). -/
def execLdF (x : Reg) (s : State) : Host.Outcome State Fault Refusal :=
  .next (s.setI (glyphAddr (s.V x))).advance

/-- `LD B, Vx`: hundreds, tens and ones at `I`, `I + 1`, `I + 2` (R164). -/
def execLdB (x : Reg) (s : State) : Host.Outcome State Fault Refusal :=
  .next (s.writeBytes s.i (bcdDigits (s.V x))).advance

/-- `LD [I], Vx`: dump `V0`..`Vx` (R165). -/
def execLdMemVx (x : Reg) (s : State) : Host.Outcome State Fault Refusal :=
  .next (s.writeBytes s.i (s.firstRegs x)).advance

/-- `LD Vx, [I]`: load `V0`..`Vx` (R166). -/
def execLdVxMem (x : Reg) (s : State) : Host.Outcome State Fault Refusal :=
  .next (s.loadRegs x s.i).advance

end Sys2Proof.Machine
end

