-- ==== Sys2Proof/Machine/Step.lean ====
section
/-! DEFINITION. The step of the machine (spec/60_exceptions.md R220, spec/30_encoding.md R102). -/

namespace Sys2Proof.Machine

/-- One fetch, decode and execute (R100, R102). A word that decodes to no instruction is reported and
skipped (R129). -/
def executeCycle (s : State) : Host.Outcome State Fault Refusal :=
  match decodeWord s.fetchWord with
  | .ok i    => exec i s
  | .error _ => .next (s.unrecognized s.fetchWord)

/-- One step (R220): nothing on a halted machine (R228), a key poll while the machine awaits a key (R204),
else one cycle; then the tick, unless the cycle faulted or was refused. -/
def step (s : State) : Host.Outcome State Fault Refusal :=
  if s.halted then .next s
  else if s.wait then .next s.beginStep.pollKeys.finishStep
  else match executeCycle s.beginStep with
    | .next t    => .next t.finishStep
    | .fault r   => .fault r
    | .refused r => .refused r

/-- `s` with the word `w` where `step` fetches: high byte at `EA(PC)`, low byte at `EA(PC + 1)` (R63, R100).
The next step fetches only when the machine is neither halted nor awaiting a key, so those are cleared. -/
def State.withFetchWord (s : State) (nbits w : Nat) : State :=
  let word : Word := BitVec.ofNat 16 (w % 2 ^ nbits)
  (s.writeBytes s.pc [highByte word, lowByte word]).readyToFetch

end Sys2Proof.Machine
end

