-- ==== Sys2Proof/Machine/Boot.lean ====
section
/-! DEFINITION. What the host does to the machine: the launch (spec/70_reset_and_hazards.md R260 to R264,
spec/60_exceptions.md R230) before the first step, and the frame export (spec/43_display.md R187) between
steps. -/

namespace Sys2Proof.Machine

/-- Why the loader rejects an image; the machine never starts (R225 code 5, R230). -/
inductive LoadError where
  /-- The image is longer than 3584 bytes; carries its length. -/
  | romTooLarge (length : Nat)
deriving DecidableEq, Repr

/-- Copy the image verbatim to `0x200` (R262). -/
def State.loadImage (s : State) (image : List Byte) : Except LoadError State :=
  if image.length ≤ Config.maxImage then .ok (s.writeBytes (BitVec.ofNat 16 Config.progBase) image)
  else .error (.romTooLarge image.length)

/-- The parameters of the launch state besides the image (R7; spec/92_eei_decisions.md, the OPEN table). -/
structure LaunchConfig where
  /-- `FONT`, the 80 bytes of the glyph table (R263). -/
  font         : Vector Byte 80
  /-- `initial_delay_timer`. -/
  initialDelay : Byte
  /-- `initial_sound_timer`. -/
  initialSound : Byte
deriving DecidableEq, Repr

/-- The defaults of R7: the conventional font, both timers 0. -/
def LaunchConfig.default : LaunchConfig where
  font         := Vector.ofFn fun k => fontTable.getD k.val 0
  initialDelay := Config.initialDelayTimer
  initialSound := Config.initialSoundTimer

/-- The reset sequence of R261 on a given configuration and image. -/
def launch (c : LaunchConfig) (image : List Byte) : Except LoadError State :=
  (((State.reset.setDelay c.initialDelay).setSound c.initialSound).writeBytes
    (BitVec.ofNat 16 Config.fontBase) c.font.toList).loadImage image

/-- The exported view: pixel `(x, y)` is element `y * 64 + x` of 2048 (R27, R39). -/
def State.frame (s : State) : List Bool := (s.fb.toList.map Vector.toList).flatten

/-- `dirty <- false` (R28, R187). -/
def State.cleanFrame (s : State) : State := { s with dirty := false }

/-- `consume_frame`, the host's action between two steps: the frame, and the machine with the dirty flag
cleared (R187). -/
def State.consumeFrame (s : State) : List Bool × State := (s.frame, s.cleanFrame)

end Sys2Proof.Machine
end

