-- ==== Sys2Proof/Safety.lean ====
section
/-! DEFINITION. What claims about runs are stated with: the invariants of every reachable state
(spec/10_state.md R41), running and finished machines (spec/70_reset_and_hazards.md R266). -/

namespace Sys2Proof.Machine

/-- A timer in range: `0 <= acc <= 255` and the observable value its floor (R30, R41). -/
structure Timer.Inv (t : Timer) : Prop where
  nonneg  : 0 ≤ t.acc
  le_max  : t.acc ≤ 255
  isFloor : (t.val.toNat : Int) = t.acc.floor

/-- The invariants of R41, with the canonical form of the memory and the relation of `halted` to its
recorded cause (R32). -/
structure State.Inv (s : State) : Prop where
  index   : s.i.toNat ≤ 0xFFF
  counter : s.pc.toNat ≤ 0xFFF
  depth   : s.sp ≤ Config.stackDepth
  entries : ∀ a ∈ s.stack, a.toNat ≤ 0xFFF
  delay   : s.dt.Inv
  sound   : s.st.Inv
  memory  : s.mem.wf
  cause   : s.halted = s.fault.isSome
  parked  : s.wait = true → decodeWord s.fetchWord = .ok (.ldVxK s.waitX)

/-- The next step executes one cycle: neither halted nor awaiting a key (R220). -/
def State.running (s : State) : Prop := s.halted = false ∧ s.wait = false

/-- The program has finished: a running machine whose `PC` stands on a `JP` to its own address (R266). -/
def State.finished (s : State) : Prop :=
  s.running ∧ s.pc.toNat ≤ 0xFFF ∧ decodeWord s.fetchWord = .ok (.jp (s.pc.setWidth 12))

/-- The parts of the state besides the program counter and the general registers (R33). -/
inductive Part where
  /-- `I`. -/
  | index
  /-- The call stack. -/
  | stack
  /-- Every byte of memory. -/
  | memory
  /-- `fb` and `dirty`. -/
  | display
  /-- `DT` and `DTacc`. -/
  | delay
  /-- `ST` and `STacc`. -/
  | sound
  /-- `wait`, `wait_x`, `prev_keys`. -/
  | waiting
  /-- `halted` and `fault`. -/
  | halt
  /-- The step's report (the model's own output field). -/
  | report
  /-- The schedule of inputs and the step number (the model's own fields). -/
  | inputs
deriving DecidableEq, Repr

/-- The frame: from `s` to `t` nothing changes but the program counter, the listed registers and the listed
parts. Memory is compared by reading every address. -/
structure OnlyWrites (regs : List Reg) (parts : List Part) (s t : State) : Prop where
  regs    : ∀ r, r ∉ regs → t.V r = s.V r
  index   : .index ∉ parts → t.i = s.i
  stack   : .stack ∉ parts → t.stack = s.stack
  memory  : .memory ∉ parts → ∀ a, t.readByte a = s.readByte a
  display : .display ∉ parts → t.fb = s.fb ∧ t.dirty = s.dirty
  delay   : .delay ∉ parts → t.dt = s.dt
  sound   : .sound ∉ parts → t.st = s.st
  waiting : .waiting ∉ parts → t.wait = s.wait ∧ t.waitX = s.waitX ∧ t.prevKeys = s.prevKeys
  halt    : .halt ∉ parts → t.halted = s.halted ∧ t.fault = s.fault
  report  : .report ∉ parts → t.report = s.report
  inputs  : .inputs ∉ parts → t.inputs = s.inputs ∧ t.stepNo = s.stepNo

/-- `k` steps from `s` end in a state that has not halted (R228: a halt is no success). -/
def safeRun (k : Nat) (s : State) : Prop :=
  match k with
  | 0 => s.halted = false
  | k + 1 => ∃ t, step s = .next t ∧ safeRun k t

end Sys2Proof.Machine
end

