-- ==== Sys2Proof/Certificates/Slice0/Obligations.lean ====
section
/-! DEFINITION. The statements for the provers, each about the machine as spec/ describes it. Where a
statement rests on a decision of the spec (D<n> of spec/92_eei_decisions.md) or on a choice of the model,
its docstring names it. -/

open Sys2Proof Sys2Proof.Machine

/-! ### Encoding -/

/-- Decoding the canonical word of any well-formed instruction gives the instruction back (the table of
R96, the procedure of R95; the patterns the source does not attest are general knowledge there, log 12). -/
def Obligations.DecodeOfEncodeIsIdentity : Prop :=
  ∀ i : Instr, i.wellFormed = true → decodeWord (encode i) = .ok i

/-- The bits of a word that an instruction's decoding depends on: all but the low nibble of `5XY_` and
`9XY_` and the `y` of `SHR` and `SHL` (R107; decisions D12 and D14). -/
def significantBits : Instr → Word
  | .seReg _ _ | .sneReg _ _ => 0xFFF0
  | .shr _ | .shl _ => 0xFF0F
  | _ => 0xFFFF

/-- A word that decodes to an instruction is of that instruction's row of the opcode map, and every bit of
it but the ignored ones is in the instruction: encoding gives those bits back. -/
def Obligations.DecodedWordIsOfItsRow : Prop :=
  ∀ (w : Word) (i : Instr), decodeWord w = .ok i →
    i.wellFormed = true ∧ w &&& i.row.1 = i.row.2 ∧ encode i = w &&& significantBits i

/-- The words the decoder rejects are exactly those of the last three rows of R98 (the first row is `SYS`):
families 8, E and F without a selector of theirs (decisions D11 and D13). -/
def Obligations.RejectedWordsAreTheUnrecognizedOnes : Prop :=
  ∀ w : Word, (∃ e, decodeWord w = .error e) ↔
    (w.toNat / 4096 = 0x8 ∧ w.toNat % 16 ∈ [0x8, 0x9, 0xA, 0xB, 0xC, 0xD, 0xF]) ∨
    (w.toNat / 4096 = 0xE ∧ w.toNat % 256 ∉ [0x9E, 0xA1]) ∨
    (w.toNat / 4096 = 0xF ∧
      w.toNat % 256 ∉ [0x07, 0x0A, 0x15, 0x18, 0x1E, 0x29, 0x33, 0x55, 0x65])

/-- The seven words the source attests (R96) and a word of each other family (3, 4, 5, 9 and A to F) decode to
what the spec says they are; a word `0NNN` beside `CLS` and `RET` is `SYS`, and a word of family 8 without a
selector is rejected by name (R208's example and 95_test_vectors.md sections 2.1 to 2.4). -/
def Obligations.WordsOfTheSpecDecode : Prop :=
  decodeWord 0x00E0 = .ok .cls ∧ decodeWord 0x00EE = .ok .ret ∧ decodeWord 0x1200 = .ok (.jp 0x200) ∧
  decodeWord 0x2300 = .ok (.call 0x300) ∧ decodeWord 0x6A02 = .ok (.ldImm 0xA 0x02) ∧
  decodeWord 0x7A05 = .ok (.addImm 0xA 0x05) ∧ decodeWord 0x8AB4 = .ok (.addReg 0xA 0xB) ∧
  decodeWord 0x01E0 = .ok (.sys 0x1E0) ∧ decodeWord 0x3A07 = .ok (.seImm 0xA 0x07) ∧
  decodeWord 0x4A07 = .ok (.sneImm 0xA 0x07) ∧ decodeWord 0x5AB7 = .ok (.seReg 0xA 0xB) ∧
  decodeWord 0x9AB5 = .ok (.sneReg 0xA 0xB) ∧ decodeWord 0xA2F0 = .ok (.ldI 0x2F0) ∧
  decodeWord 0xB300 = .ok (.jpV0 0x300) ∧ decodeWord 0xC30F = .ok (.rnd 0x3 0x0F) ∧
  decodeWord 0xD125 = .ok (.drw 0x1 0x2 0x5) ∧ decodeWord 0xE59E = .ok (.skp 0x5) ∧
  decodeWord 0xF533 = .ok (.ldB 0x5) ∧ decodeWord 0x8ABF = .error (.noSuchFamily8 0x8ABF)

/-! ### The step -/

/-- The fetched word has the byte at `EA(PC)` as its high half and the byte at `EA(PC + 1)` as its low half,
both addresses modulo 4096 (R63, R100; the mask is decision D1). -/
def Obligations.FetchIsBigEndianAndWraps : Prop :=
  ∀ s : State, s.fetchWord.toNat =
    (s.mem.read (s.pc.toNat % 4096)).toNat * 256 + (s.mem.read ((s.pc.toNat + 1) % 4096)).toNat

/-- A step of a machine that is neither halted nor waiting runs the instruction the bytes at `PC` decode
to: it is `exec` of that instruction, with the old report gone before (the model's own field, log 2), and
the tick and the using up of the inputs (log 1) after (R220; decisions D15 and D20). -/
def Obligations.StepRunsTheDecodedInstruction : Prop :=
  ∀ (s : State) (i : Instr), s.running → decodeWord s.fetchWord = .ok i →
    step s = match exec i s.beginStep with
      | .next t    => .next t.finishStep
      | .fault r   => .fault r
      | .refused r => .refused r

/-- What a step adds after the instruction: unless the machine has halted both timers tick by the step's
`elapsed`; the inputs are used up; nothing else changes (R220; decision D20; logs 1 and 10). -/
def Obligations.FinishingAStepTicksUnlessHalted : Prop :=
  ∀ s : State,
    OnlyWrites [] [.delay, .sound, .inputs] s s.finishStep ∧ s.finishStep.pc = s.pc ∧
    s.finishStep.inputs = s.inputs.tail ∧ s.finishStep.stepNo = s.stepNo + 1 ∧
    (s.halted = false →
      s.finishStep.dt = s.dt.tick s.input.elapsed ∧ s.finishStep.st = s.st.tick s.input.elapsed) ∧
    (s.halted = true → s.finishStep.dt = s.dt ∧ s.finishStep.st = s.st)

/-- A step on an unrecognized word completes: it reports the word with its address, moves `PC` past it,
ticks, and changes nothing else (R129, R231; decision D21, log 2). -/
def Obligations.UnrecognizedWordIsReportedAndSkipped : Prop :=
  ∀ (s : State) (e : DecodeReject), s.running → decodeWord s.fetchWord = .error e →
    ∃ t, step s = .next t ∧ t.report = some { pc := s.pc, word := s.fetchWord } ∧
      t.pc.toNat = (s.pc.toNat + 2) % 4096 ∧
      t.dt = s.dt.tick s.input.elapsed ∧ t.st = s.st.tick s.input.elapsed ∧
      OnlyWrites [] [.delay, .sound, .report, .inputs] s t

/-- A halted machine takes no step: the state is as it was, whatever the inputs (R228, R229; decision
D16, log 3). -/
def Obligations.HaltedMachineStaysAsItIs : Prop :=
  ∀ s : State, s.halted = true → step s = .next s

/-- A poll step with a newly pressed key stores the least such key in the waiting register, ends the wait
and moves `PC` by 2; the timers tick (R204; decisions D2, D7 and D8, logs 9 and 10); an old report is gone
(the model's own field, log 2). -/
def Obligations.PollStoresLowestNewKey : Prop :=
  ∀ (s : State) (k : Fin 16), s.halted = false → s.wait = true →
    s.input.keys[k.val] = true → s.prevKeys[k.val] = false →
    (∀ j : Fin 16, j < k → ¬(s.input.keys[j.val] = true ∧ s.prevKeys[j.val] = false)) →
    ∃ t, step s = .next t ∧ (t.V s.waitX).toNat = k.val ∧ t.wait = false ∧
      t.pc.toNat = (s.pc.toNat + 2) % 4096 ∧ t.waitX = s.waitX ∧ t.prevKeys = s.prevKeys ∧
      t.dt = s.dt.tick s.input.elapsed ∧ t.st = s.st.tick s.input.elapsed ∧ t.report = none ∧
      OnlyWrites [s.waitX] [.waiting, .delay, .sound, .report, .inputs] s t

/-- A poll step with no newly pressed key keeps waiting: only the snapshot, the timers and the step's own
inputs change (R204; decisions D7 and D8, logs 9 and 10), and an old report is gone (the model's own field,
log 2). -/
def Obligations.PollWithoutNewKeyKeepsWaiting : Prop :=
  ∀ s : State, s.halted = false → s.wait = true →
    (∀ k : Fin 16, ¬(s.input.keys[k.val] = true ∧ s.prevKeys[k.val] = false)) →
    ∃ t, step s = .next t ∧ t.wait = true ∧ t.waitX = s.waitX ∧ t.prevKeys = s.input.keys ∧
      t.pc = s.pc ∧ t.dt = s.dt.tick s.input.elapsed ∧ t.st = s.st.tick s.input.elapsed ∧
      t.report = none ∧ OnlyWrites [] [.waiting, .delay, .sound, .report, .inputs] s t

/-- Nothing but a key that goes from unpressed to pressed between two polls ends a wait (R240). -/
def Obligations.OnlyANewKeyEndsAWait : Prop :=
  ∀ s t : State, s.wait = true → step s = .next t → t.wait = false →
    ∃ k : Fin 16, s.input.keys[k.val] = true ∧ s.prevKeys[k.val] = false

/-! ### Control transfer -/

/-- `SYS nnn` completes in every state: it reports the word `0x0nnn`, advances by 2 and changes nothing
else (R130; decisions D11 and D21, log 2). -/
def Obligations.SysReportsAndAdvances : Prop :=
  ∀ (nnn : Addr12) (s : State), ∃ t, exec (.sys nnn) s = .next t ∧
    (∃ r, t.report = some r ∧ r.pc = s.pc ∧ r.word.toNat = nnn.toNat) ∧
    t.pc.toNat = (s.pc.toNat + 2) % 4096 ∧ OnlyWrites [] [.report] s t

/-- `RET` with a non-empty stack takes the most recent entry off the stack into `PC` (R121). -/
def Obligations.ReturnPopsIntoPc : Prop :=
  ∀ (s : State) (older : List Word) (a : Word), s.stack = older ++ [a] →
    ∃ t, exec .ret s = .next t ∧ t.pc = a ∧ t.stack = older ∧ OnlyWrites [] [.stack] s t

/-- `RET` with an empty stack takes the fault `StackUnderflow`: the machine halts with the cause and the
address of the `RET` recorded, and nothing else changes, `PC` included (R226, R228; decision D16, log 3). -/
def Obligations.ReturnOnEmptyStackHalts : Prop :=
  ∀ s : State, s.stack = [] →
    ∃ t, exec .ret s = .next t ∧ t.halted = true ∧ t.fault = some (.stackUnderflow s.pc) ∧
      t.pc = s.pc ∧ OnlyWrites [] [.halt] s t

/-- The step on which `RET` finds an empty stack, and the step on which `CALL` finds 16 entries on it, halt
with the cause recorded and leave the timers and everything else where they were (R220, R228; decisions D5,
D16 and D20, logs 8 and 10; that the report and the inputs stand in the state is the model's own, logs 1
and 2). -/
def Obligations.FaultingStepDoesNotTick : Prop :=
  ∀ s : State, s.running →
    (decodeWord s.fetchWord = .ok .ret → s.stack = [] →
      ∃ t, step s = .next t ∧ t.halted = true ∧ t.fault = some (.stackUnderflow s.pc) ∧
        t.pc = s.pc ∧ OnlyWrites [] [.halt, .report, .inputs] s t) ∧
    (∀ nnn, decodeWord s.fetchWord = .ok (.call nnn) → s.sp = 16 →
      ∃ t, step s = .next t ∧ t.halted = true ∧ t.fault = some (.stackOverflow s.pc) ∧
        t.pc = s.pc ∧ OnlyWrites [] [.halt, .report, .inputs] s t)

/-- `JP nnn` completes with `PC = nnn`, `JP V0, nnn` with `PC = (nnn + V0) mod 4096`; no flag and nothing else
is written (R122, R128). -/
def Obligations.JumpsSetPc : Prop :=
  ∀ (nnn : Addr12) (s : State),
    (∃ t, exec (.jp nnn) s = .next t ∧ t.pc.toNat = nnn.toNat ∧ OnlyWrites [] [] s t) ∧
    (∃ t, exec (.jpV0 nnn) s = .next t ∧ t.pc.toNat = (nnn.toNat + (s.V 0).toNat) % 4096 ∧
      OnlyWrites [] [] s t)

/-- `CALL nnn` with room on the stack pushes the masked address of the next instruction and jumps (R123;
the mask is decision D2, the bound of 16 decision D5, logs 5 and 8). -/
def Obligations.CallPushesReturnAddress : Prop :=
  ∀ (nnn : Addr12) (s : State), s.sp < 16 →
    ∃ t a, exec (.call nnn) s = .next t ∧ t.stack = s.stack ++ [a] ∧
      a.toNat = (s.pc.toNat + 2) % 4096 ∧ t.pc.toNat = nnn.toNat ∧ OnlyWrites [] [.stack] s t

/-- `CALL` with 16 entries on the stack takes the fault `StackOverflow` and changes nothing else (R227,
R228; decisions D5 and D16, log 8). -/
def Obligations.CallOnFullStackHalts : Prop :=
  ∀ (nnn : Addr12) (s : State), s.sp = 16 →
    ∃ t, exec (.call nnn) s = .next t ∧ t.halted = true ∧ t.fault = some (.stackOverflow s.pc) ∧
      t.pc = s.pc ∧ OnlyWrites [] [.halt] s t

/-- `SE Vx, nn` and `SNE Vx, nn` complete: `PC` moves by 4 when the register equals (does not equal) the
immediate, else by 2, modulo 4096, and nothing else changes (R124, R125; the wrap is decision D2). -/
def Obligations.SkipsOnImmediate : Prop :=
  ∀ (x : Reg) (nn : Byte) (s : State),
    (∃ t, exec (.seImm x nn) s = .next t ∧ OnlyWrites [] [] s t ∧
      t.pc.toNat = (s.pc.toNat + if s.V x = nn then 4 else 2) % 4096) ∧
    (∃ t, exec (.sneImm x nn) s = .next t ∧ OnlyWrites [] [] s t ∧
      t.pc.toNat = (s.pc.toNat + if s.V x = nn then 2 else 4) % 4096)

/-- `SE Vx, Vy` and `SNE Vx, Vy` complete in the same way on two registers (R126, R127; the wrap is
decision D2). -/
def Obligations.SkipsOnRegisters : Prop :=
  ∀ (x y : Reg) (s : State),
    (∃ t, exec (.seReg x y) s = .next t ∧ OnlyWrites [] [] s t ∧
      t.pc.toNat = (s.pc.toNat + if s.V x = s.V y then 4 else 2) % 4096) ∧
    (∃ t, exec (.sneReg x y) s = .next t ∧ OnlyWrites [] [] s t ∧
      t.pc.toNat = (s.pc.toNat + if s.V x = s.V y then 2 else 4) % 4096)

/-- The instructions that set `PC` themselves (R101). -/
def setsPc : Instr → Bool
  | .ret | .jp _ | .call _ | .jpV0 _ | .seImm _ _ | .sneImm _ _ | .seReg _ _ | .sneReg _ _ | .skp _
  | .sknp _ | .ldVxK _ => true
  | _ => false

/-- Every instruction that does not set `PC` itself leaves it at `(PC + 2) mod 4096` (the row "every other
instruction" of R101; the wrap is decision D2). -/
def Obligations.OtherInstructionsAdvanceByTwo : Prop :=
  ∀ (i : Instr) (s : State), setsPc i = false →
    ∃ t, exec i s = .next t ∧ t.pc.toNat = (s.pc.toNat + 2) % 4096

/-! ### Register load, arithmetic and logic -/

/-- `LD Vx, nn` and `LD Vx, Vy` complete with `Vx` the immediate, or the value `Vy` had; no flag side effect:
`VF` and everything else unchanged unless it is `Vx` (R142, R144). -/
def Obligations.LoadsCopyWithoutFlag : Prop :=
  ∀ (x y : Reg) (nn : Byte) (s : State),
    (∃ t, exec (.ldImm x nn) s = .next t ∧ t.V x = nn ∧ OnlyWrites [x] [] s t) ∧
    (∃ t, exec (.ldReg x y) s = .next t ∧ t.V x = s.V y ∧ OnlyWrites [x] [] s t)

/-- `ADD Vx, nn` completes with the wrapped sum and no flag side effect (R143). -/
def Obligations.AddImmediateWrapsWithoutFlag : Prop :=
  ∀ (x : Reg) (nn : Byte) (s : State), ∃ t, exec (.addImm x nn) s = .next t ∧
    (t.V x).toNat = ((s.V x).toNat + nn.toNat) % 256 ∧ OnlyWrites [x] [] s t

/-- `OR`, `AND` and `XOR` complete with the operation bit by bit and no flag side effect (R145 to R147). -/
def Obligations.LogicIsBitwiseWithoutFlag : Prop :=
  ∀ (x y : Reg) (s : State),
    (∃ t, exec (.orReg x y) s = .next t ∧ OnlyWrites [x] [] s t ∧
      ∀ k < 8, (t.V x).getLsbD k = ((s.V x).getLsbD k || (s.V y).getLsbD k)) ∧
    (∃ t, exec (.andReg x y) s = .next t ∧ OnlyWrites [x] [] s t ∧
      ∀ k < 8, (t.V x).getLsbD k = ((s.V x).getLsbD k && (s.V y).getLsbD k)) ∧
    (∃ t, exec (.xorReg x y) s = .next t ∧ OnlyWrites [x] [] s t ∧
      ∀ k < 8, (t.V x).getLsbD k = ((s.V x).getLsbD k ^^ (s.V y).getLsbD k))

/-- `ADD Vx, Vy` completes: `VF` is the carry whatever `x` is, `Vx` (if it is not `VF`) the sum modulo 256,
both from the operands before the instruction (R148; that the flag is what remains when `x` is `VF` is R141,
decision D4, log 7). -/
def Obligations.AddRegistersSetsCarry : Prop :=
  ∀ (x y : Reg) (s : State), ∃ t, exec (.addReg x y) s = .next t ∧
    (t.V VF).toNat = (if (s.V x).toNat + (s.V y).toNat > 255 then 1 else 0) ∧
    (x ≠ VF → (t.V x).toNat = ((s.V x).toNat + (s.V y).toNat) % 256) ∧ OnlyWrites [x, VF] [] s t

/-- `SUB Vx, Vy` and `SUBN Vx, Vy` complete: `Vx` (if it is not `VF`) is `Vx - Vy`, or `Vy - Vx`, modulo 256,
and `VF` is 1 exactly when there is no borrow (R149, R151; the flag written last is decision D4, log 7). -/
def Obligations.SubtractionsSetNotBorrow : Prop :=
  ∀ (x y : Reg) (s : State),
    (∃ t, exec (.sub x y) s = .next t ∧
      (t.V VF).toNat = (if (s.V x).toNat ≥ (s.V y).toNat then 1 else 0) ∧
      (x ≠ VF → ((t.V x).toNat : Int) = ((s.V x).toNat - (s.V y).toNat : Int) % 256) ∧
      OnlyWrites [x, VF] [] s t) ∧
    (∃ t, exec (.subn x y) s = .next t ∧
      (t.V VF).toNat = (if (s.V y).toNat ≥ (s.V x).toNat then 1 else 0) ∧
      (x ≠ VF → ((t.V x).toNat : Int) = ((s.V y).toNat - (s.V x).toNat : Int) % 256) ∧
      OnlyWrites [x, VF] [] s t)

/-- `SHR Vx` and `SHL Vx` complete: `Vx` (if it is not `VF`) is halved, or doubled modulo 256, and `VF` is the
bit shifted out, its old bit 0 or bit 7 (R150, R152; the flag written last is decision D4, log 7). -/
def Obligations.ShiftsMoveOneBitIntoFlag : Prop :=
  ∀ (x : Reg) (s : State),
    (∃ t, exec (.shr x) s = .next t ∧ (t.V VF).toNat = (s.V x).toNat % 2 ∧
      (x ≠ VF → (t.V x).toNat = (s.V x).toNat / 2) ∧ OnlyWrites [x, VF] [] s t) ∧
    (∃ t, exec (.shl x) s = .next t ∧ (t.V VF).toNat = (s.V x).toNat / 128 ∧
      (x ≠ VF → (t.V x).toNat = 2 * (s.V x).toNat % 256) ∧ OnlyWrites [x, VF] [] s t)

/-! ### Index register and memory -/

/-- `LD I, nnn` completes with `I = nnn` (R161). -/
def Obligations.LoadIndex : Prop :=
  ∀ (nnn : Addr12) (s : State), ∃ t, exec (.ldI nnn) s = .next t ∧ t.i.toNat = nnn.toNat ∧
    OnlyWrites [] [.index] s t

/-- `ADD I, Vx` completes: `I` is the sum modulo 4096, `VF` is 1 exactly when the sum exceeds `0xFFF`
(R162). -/
def Obligations.AddToIndexSetsOverflow : Prop :=
  ∀ (x : Reg) (s : State), ∃ t, exec (.addI x) s = .next t ∧
    t.i.toNat = (s.i.toNat + (s.V x).toNat) % 4096 ∧
    (t.V VF).toNat = (if s.i.toNat + (s.V x).toNat > 0xFFF then 1 else 0) ∧
    OnlyWrites [VF] [.index] s t

/-- `LD F, Vx` completes with `I = 5 * Vx` for the whole 8-bit value (R163; decision D25, log 15). -/
def Obligations.GlyphAddressIsFiveTimesVx : Prop :=
  ∀ (x : Reg) (s : State), ∃ t, exec (.ldF x) s = .next t ∧ t.i.toNat = 5 * (s.V x).toNat ∧
    OnlyWrites [] [.index] s t

/-- `LD B, Vx` completes: the hundreds, tens and ones of `Vx` stand at `I`, `I + 1` and `I + 2` modulo
4096, and every other byte of memory is as before (R164; the mask is decision D1). -/
def Obligations.BcdStoresThreeDigits : Prop :=
  ∀ (x : Reg) (s : State), ∃ t, exec (.ldB x) s = .next t ∧
    (t.mem.read (s.i.toNat % 4096)).toNat = (s.V x).toNat / 100 ∧
    (t.mem.read ((s.i.toNat + 1) % 4096)).toNat = (s.V x).toNat / 10 % 10 ∧
    (t.mem.read ((s.i.toNat + 2) % 4096)).toNat = (s.V x).toNat % 10 ∧
    (∀ a, (∀ k < 3, a ≠ (s.i.toNat + k) % 4096) → t.mem.read a = s.mem.read a) ∧
    OnlyWrites [] [.memory] s t

/-- `LD [I], Vx` completes: register `k` stands at `I + k` modulo 4096 for `k = 0` to `x`, and every other
byte of memory is as before; `I` is unmodified (R165; the mask is decision D1). -/
def Obligations.DumpStoresFirstRegisters : Prop :=
  ∀ (x : Reg) (s : State), ∃ t, exec (.ldMemVx x) s = .next t ∧
    (∀ k : Reg, k ≤ x → t.mem.read ((s.i.toNat + k.val) % 4096) = s.V k) ∧
    (∀ a, (∀ k : Reg, k ≤ x → a ≠ (s.i.toNat + k.val) % 4096) → t.mem.read a = s.mem.read a) ∧
    OnlyWrites [] [.memory] s t

/-- `LD Vx, [I]` completes: register `k` is the byte at `I + k` modulo 4096 for `k = 0` to `x`, the
registers above `Vx` are as before; `I` is unmodified (R166; the mask is decision D1). -/
def Obligations.LoadFillsFirstRegisters : Prop :=
  ∀ (x : Reg) (s : State), ∃ t, exec (.ldVxMem x) s = .next t ∧
    (∀ k : Reg, k ≤ x → t.V k = s.mem.read ((s.i.toNat + k.val) % 4096)) ∧
    OnlyWrites ((List.finRange 16).filter fun k => decide (k ≤ x)) [] s t

/-- A dump is seen by the next fetch from the bytes it stored, with nothing in between (R74, R269; decision
D22): with `PC` at the `k`-th stored byte the fetched word is the two stored bytes. -/
def Obligations.StoreIsSeenByTheNextFetch : Prop :=
  ∀ (x k : Reg) (s t : State), k < x → exec (.ldMemVx x) s = .next t →
    (t.jump (offsetAddr s.i k.val)).fetchWord = wordOfBytes (s.V k) (s.V (k + 1))

/-! ### Display -/

/-- `CLS` completes: every pixel is unlit and the buffer dirty; `VF` and everything else as before (R180,
R185). -/
def Obligations.ClearScreenBlanksAndMarksDirty : Prop :=
  ∀ s : State, ∃ t, exec .cls s = .next t ∧ (∀ x y, t.fb.pixel x y = false) ∧ t.dirty = true ∧
    OnlyWrites [] [.display] s t

/-- The pixel `(px, py)` lies under a 1 bit of the sprite `DRW Vx, Vy, n` draws: row `r` is the byte at
`I + r`, column `c` its bit `7 - c`, the origin `(Vx mod 64, Vy mod 32)`, nothing wraps after it (R181,
R184; bit order R182, decision D17). -/
def underSprite (s : State) (x y : Reg) (n : Nibble) (px : Fin 64) (py : Fin 32) : Prop :=
  ∃ r c : Nat, r < n.toNat ∧ c < 8 ∧ px.val = (s.V x).toNat % 64 + c ∧
    py.val = (s.V y).toNat % 32 + r ∧ (s.mem.read ((s.i.toNat + r) % 4096)).getLsbD (7 - c) = true

/-- `DRW Vx, Vy, n` completes: it inverts the pixels under the 1 bits of the sprite and no other, marks the
buffer dirty, and sets `VF` to 1 exactly when one of those pixels was lit; also for `n = 0` (R183, R186;
decisions D17 and D26, log 13). -/
def Obligations.DrawXorsSpriteAndReportsCollision : Prop :=
  ∀ (x y : Reg) (n : Nibble) (s : State), ∃ t, exec (.drw x y n) s = .next t ∧
    (∀ px py, underSprite s x y n px py → t.fb.pixel px py = !s.fb.pixel px py) ∧
    (∀ px py, ¬underSprite s x y n px py → t.fb.pixel px py = s.fb.pixel px py) ∧
    t.dirty = true ∧
    ((∃ px py, underSprite s x y n px py ∧ s.fb.pixel px py = true) → t.V VF = 1) ∧
    ((¬∃ px py, underSprite s x y n px py ∧ s.fb.pixel px py = true) → t.V VF = 0) ∧
    OnlyWrites [VF] [.display] s t

/-- Drawing the same sprite bytes at the same coordinates twice restores the buffer; the second draw
collides exactly when some pixel under the sprite was unlit before the first, which is when some pixel
differs between the two buffers and is lit after the first (R188). -/
def Obligations.DrawingTwiceRestoresTheBuffer : Prop :=
  ∀ (fb : Framebuffer) (x y : Byte) (rows : List Byte),
    ((fb.drawSprite x y rows).fb.drawSprite x y rows).fb = fb ∧
    (((fb.drawSprite x y rows).fb.drawSprite x y rows).hit = true ↔
      ∃ px py, fb.pixel px py = false ∧ (fb.drawSprite x y rows).fb.pixel px py = true)

/-! ### Keys, timers, random -/

/-- `SKP Vx` and `SKNP Vx` with a key index in 0..15 complete: `PC` moves by 4 when the key named by the
VALUE of `Vx` is pressed (not pressed) in this step's snapshot, else by 2 (R201, R202; the wrap is
decision D2). -/
def Obligations.KeySkipsReadTheSnapshot : Prop :=
  ∀ (x : Reg) (s : State) (k : Fin 16), (s.V x).toNat = k.val →
    (∃ t, exec (.skp x) s = .next t ∧ OnlyWrites [] [] s t ∧
      t.pc.toNat = (s.pc.toNat + if s.input.keys[k.val] = true then 4 else 2) % 4096) ∧
    (∃ t, exec (.sknp x) s = .next t ∧ OnlyWrites [] [] s t ∧
      t.pc.toNat = (s.pc.toNat + if s.input.keys[k.val] = true then 2 else 4) % 4096)

/-- `SKP` and `SKNP` with an index above 15 are refused with `pc` and the index (R232; decision D6,
log 4). -/
def Obligations.KeySkipsRefuseLargeIndex : Prop :=
  ∀ (x : Reg) (s : State), 15 < (s.V x).toNat →
    exec (.skp x) s = .refused (.keyIndexOutOfRange s.pc (s.V x)) ∧
    exec (.sknp x) s = .refused (.keyIndexOutOfRange s.pc (s.V x))

/-- `LD Vx, K` completes: the machine awaits a key for `Vx` with this step's snapshot as the baseline, `PC`
stays, no register is written (R203; decision D7, log 9). -/
def Obligations.WaitForKeyParks : Prop :=
  ∀ (x : Reg) (s : State), ∃ t, exec (.ldVxK x) s = .next t ∧ t.wait = true ∧ t.waitX = x ∧
    t.prevKeys = s.input.keys ∧ t.pc = s.pc ∧ OnlyWrites [] [.waiting] s t

/-- `LD Vx, DT` completes with the 8-bit observable value, the one the previous step's tick left (R205;
the wrap of `PC` is decision D2). -/
def Obligations.ReadDelayTimer : Prop :=
  ∀ (x : Reg) (s : State), ∃ t, exec (.ldVxDt x) s = .next t ∧ t.V x = s.dt.val ∧
    t.pc.toNat = (s.pc.toNat + 2) % 4096 ∧ OnlyWrites [x] [] s t

/-- `LD DT, Vx` and `LD ST, Vx` complete: the accumulator and the observable value of the one timer become
`Vx`, the other timer is as before (R206, R207, R222; the wrap of `PC` is decision D2). -/
def Obligations.SetTimersToVx : Prop :=
  ∀ (x : Reg) (s : State),
    (∃ t, exec (.ldDtVx x) s = .next t ∧ t.dt.acc = ((s.V x).toNat : Rat) ∧ t.dt.val = s.V x ∧
      t.pc.toNat = (s.pc.toNat + 2) % 4096 ∧ OnlyWrites [] [.delay] s t) ∧
    (∃ t, exec (.ldStVx x) s = .next t ∧ t.st.acc = ((s.V x).toNat : Rat) ∧ t.st.val = s.V x ∧
      t.pc.toNat = (s.pc.toNat + 2) % 4096 ∧ OnlyWrites [] [.sound] s t)

/-- `RND Vx, nn` completes with the random byte of the step masked by `nn`, whatever byte that is (R208,
R209; decision D10, log 1; the wrap of `PC` is decision D2). -/
def Obligations.RandomIsMaskedInput : Prop :=
  ∀ (x : Reg) (nn : Byte) (s : State), ∃ t, exec (.rnd x nn) s = .next t ∧
    t.V x = s.input.rand &&& nn ∧ t.V x &&& ~~~nn = 0 ∧
    t.pc.toNat = (s.pc.toNat + 2) % 4096 ∧ OnlyWrites [x] [] s t

/-- The tick of a timer in range: the accumulator loses 60 a second and stops at zero, the observable value
is its floor (R221; the accumulators are exact by decision D9, log 11). -/
def Obligations.TickLosesSixtyASecond : Prop :=
  ∀ (timer : Timer) (e : Seconds), timer.Inv →
    (60 * e.val ≤ timer.acc → (timer.tick e).acc = timer.acc - 60 * e.val) ∧
    (timer.acc < 60 * e.val → (timer.tick e).acc = 0) ∧
    (((timer.tick e).val.toNat : Nat) : Rat) ≤ (timer.tick e).acc ∧
    (timer.tick e).acc < (((timer.tick e).val.toNat : Nat) : Rat) + 1

/-- Two ticks leave what one tick of the summed time leaves, accumulator and observable value (R223 (a);
decision D9, log 11). -/
def Obligations.TicksDependOnTotalTimeOnly : Prop :=
  ∀ (timer : Timer) (a b c : Seconds), 0 ≤ timer.acc → c.val = a.val + b.val →
    (timer.tick a).tick b = timer.tick c

/-- No step raises the delay timer but one that executes `LD DT, Vx`, and none raises the sound timer but
one that executes `LD ST, Vx` (R223 (d), R224). -/
def Obligations.TimersRiseOnlyWhenSet : Prop :=
  ∀ s t : State, s.Inv → step s = .next t →
    ((∀ x, decodeWord s.fetchWord ≠ .ok (.ldDtVx x)) → t.dt.acc ≤ s.dt.acc ∧ t.dt.val ≤ s.dt.val) ∧
    ((∀ x, decodeWord s.fetchWord ≠ .ok (.ldStVx x)) → t.st.acc ≤ s.st.acc ∧ t.st.val ≤ s.st.val)

/-! ### Rules of the whole machine -/

/-- The parts of the state an instruction may write, by the tables of R20, R24, R33, R65 and R160: memory
is written by `LD B` and `LD [I]` only, the stack by `CALL` and `RET`, the display by `CLS` and `DRW`, `I`
by `LD I`, `ADD I` and `LD F`, a timer by its set, the wait by `LD Vx, K`, `halted` by `CALL` and `RET`. -/
def mayWrite : Instr → List Part
  | .sys _ => [.report]
  | .cls | .drw _ _ _ => [.display]
  | .ret | .call _ => [.stack, .halt]
  | .ldI _ | .addI _ | .ldF _ => [.index]
  | .ldB _ | .ldMemVx _ => [.memory]
  | .ldVxK _ => [.waiting]
  | .ldDtVx _ => [.delay]
  | .ldStVx _ => [.sound]
  | _ => []

/-- The destination registers of an instruction other than the flag (the table of R20). -/
def destinations : Instr → List Reg
  | .ldImm x _ | .addImm x _ | .ldReg x _ | .orReg x _ | .andReg x _ | .xorReg x _ | .addReg x _
  | .sub x _ | .shr x | .subn x _ | .shl x | .rnd x _ | .ldVxDt x => [x]
  | .ldVxMem x => (List.finRange 16).filter fun k => decide (k ≤ x)
  | _ => []

/-- The seven instructions that write `VF` as a flag (the table of R21). -/
def writesFlag : Instr → Bool
  | .addReg _ _ | .sub _ _ | .shr _ | .subn _ _ | .shl _ | .drw _ _ _ | .addI _ => true
  | _ => false

/-- No instruction writes a register or a part of the state that the spec's tables do not let it write: a
register only as its destination, `VF` only as that or as one of the seven flag writers, and a part only as
`mayWrite` says (R20, R21, R33, R65). -/
def Obligations.OnlyListedInstructionsWriteEachPart : Prop :=
  ∀ (i : Instr) (s t : State), exec i s = .next t →
    OnlyWrites (destinations i ++ if writesFlag i then [VF] else []) (mayWrite i) s t

/-- The seven flag writers complete in every state and leave exactly 0 or 1 in `VF`, also when `VF` is their
destination (R21, R268; decision D4, log 7). -/
def Obligations.FlagWritersLeaveZeroOrOne : Prop :=
  ∀ (i : Instr) (s : State), writesFlag i = true →
    ∃ t, exec i s = .next t ∧ (t.V VF = 0 ∨ t.V VF = 1)

/-- The exceptional conditions are those of R225 and no others: no meaning answers a fault outcome, only
`SKP` and `SKNP` on an index above 15 are refused, and only `RET` on an empty and `CALL` on a full stack
halt a machine that was not halted (R225, R234; decisions D5, D6 and D16). -/
def Obligations.ExceptionalConditionsAreTheListedOnes : Prop :=
  ∀ (i : Instr) (s : State),
    (∀ f, exec i s ≠ .fault f) ∧
    (∀ r, exec i s = .refused r → ∃ x, (i = .skp x ∨ i = .sknp x) ∧ 15 < (s.V x).toNat) ∧
    (∀ t, exec i s = .next t → s.halted = false → t.halted = true →
      (i = .ret ∧ s.stack = []) ∨ (∃ nnn, i = .call nnn) ∧ 16 ≤ s.sp)

/-- The instructions that read an input of the step: the keys, or the random byte (the table of R38). -/
def readsInputs : Instr → Bool
  | .skp _ | .sknp _ | .ldVxK _ | .rnd _ _ => true
  | _ => false

/-- No other instruction depends on the inputs: with any other schedule of inputs it has the same effect
(the table of R38; decision D15; that the inputs stand in the state is the model's own, log 1). -/
def Obligations.OnlyFourInstructionsReadTheInputs : Prop :=
  ∀ (i : Instr) (s t : State) (schedule : List StepInput), readsInputs i = false → exec i s = .next t →
    exec i { s with inputs := schedule } = .next { t with inputs := schedule }

/-- The inputs of a step are the first that the schedule lists: what an instruction and the tick read as
`State.input` is that entry (R38; decision D15; the schedule is the model's own field, log 1). -/
def Obligations.StepReadsTheFirstScheduledInput : Prop :=
  ∀ (s : State) (first : StepInput) (rest : List StepInput), s.inputs = first :: rest →
    s.input = first ∧ s.beginStep.input = first ∧
    ∀ i t, exec i s.beginStep = .next t → t.input = first ∧ t.finishStep.inputs = rest

/-- The invariants of R41, with the canonical memory, the halt and its cause, and the parked instruction of
a waiting machine, are kept by every step (R41 is marked as derived; logs 3 and 5). -/
def Obligations.StepKeepsTheInvariants : Prop :=
  ∀ s t : State, s.Inv → step s = .next t → t.Inv

/-- The machine right after reset meets the invariants. -/
def Obligations.ResetMeetsTheInvariants : Prop := State.reset.Inv

/-- The host's `consume_frame` returns the pixels in row-major order, clears the dirty flag and changes
nothing else (R27, R187). -/
def Obligations.ConsumeFrameOnlyClearsDirty : Prop :=
  ∀ s : State, s.consumeFrame.2 = { s with dirty := false } ∧ s.consumeFrame.1.length = 2048 ∧
    ∀ (x : Fin 64) (y : Fin 32), s.consumeFrame.1[y.val * 64 + x.val]? = some (s.fb.pixel x y)

/-- Whether the host consumed the frame before a step cannot change the course of the program: the two
steps end alike, and the next states differ in the dirty flag at most (R187). -/
def Obligations.ConsumingTheFrameIsInvisible : Prop :=
  ∀ s : State,
    (∀ t, step s = .next t → ∃ u, step s.consumeFrame.2 = .next u ∧ u.consumeFrame.2 = t.consumeFrame.2) ∧
    (∀ r, step s = .refused r → step s.consumeFrame.2 = .refused r)

/-! ### Reset and launch -/

/-- The glyphs `0` to `F` as the table of R263 prints them. -/
def glyphs : List (List Byte) :=
  [[0xF0, 0x90, 0x90, 0x90, 0xF0], [0x20, 0x60, 0x20, 0x20, 0x70]] ++
  [[0xF0, 0x10, 0xF0, 0x80, 0xF0], [0xF0, 0x10, 0xF0, 0x10, 0xF0]] ++
  [[0x90, 0x90, 0xF0, 0x10, 0x10], [0xF0, 0x80, 0xF0, 0x10, 0xF0]] ++
  [[0xF0, 0x80, 0xF0, 0x90, 0xF0], [0xF0, 0x10, 0x20, 0x40, 0x40]] ++
  [[0xF0, 0x90, 0xF0, 0x90, 0xF0], [0xF0, 0x90, 0xF0, 0x10, 0xF0]] ++
  [[0xF0, 0x90, 0xF0, 0x90, 0x90], [0xE0, 0x90, 0xE0, 0x90, 0xE0]] ++
  [[0xF0, 0x80, 0x80, 0x80, 0xF0], [0xE0, 0x90, 0x90, 0x90, 0xE0]] ++
  [[0xF0, 0x80, 0xF0, 0x80, 0xF0], [0xF0, 0x80, 0xF0, 0x80, 0x80]]

/-- Right after reset every register is 0, `I` is 0, `PC` is `0x200`, the stack is empty, memory holds the
font (the table of R263, decision D18) and zeros, the display is blank and clean, both timers are 0, and
the machine neither waits nor is halted (R40; the wait and halt values by decisions D7 and D16). -/
def Obligations.ResetValues : Prop :=
  (∀ x, State.reset.V x = 0) ∧ State.reset.i = 0 ∧ State.reset.pc = 0x200 ∧ State.reset.sp = 0 ∧
  (∀ a, 0x50 ≤ a → State.reset.mem.read a = 0) ∧
  (∀ g < 16, ∀ k < 5, State.reset.mem.read (5 * g + k) = (glyphs.getD g []).getD k 0) ∧
  (∀ x y, State.reset.fb.pixel x y = false) ∧ State.reset.dirty = false ∧
  State.reset.dt = { acc := 0, val := 0 } ∧ State.reset.st = { acc := 0, val := 0 } ∧
  State.reset.wait = false ∧ State.reset.waitX = 0 ∧ (∀ k : Fin 16, State.reset.prevKeys[k.val] = false) ∧
  State.reset.halted = false ∧ State.reset.fault = none

/-- An image is accepted exactly when it has at most 3584 bytes; byte `k` lands at `0x200 + k`, the font
stands at `0x000`, the rest of memory is zero, `PC` is at the first byte, and of an image of two bytes or
more the first instruction is the first two bytes, high byte first; both timers hold their configured start
values, and every other part of the state is as right after reset (R7, R40, R261); a longer image is
rejected, no machine starts (R262). -/
def Obligations.LaunchLoadsTheImageVerbatim : Prop :=
  ∀ (c : LaunchConfig) (image : List Byte),
    (image.length ≤ 3584 → ∃ s, launch c image = .ok s ∧ s.pc = 0x200 ∧
      (∀ k (h : k < image.length), s.mem.read (0x200 + k) = image[k]) ∧
      (∀ a, 0x200 + image.length ≤ a → s.mem.read a = 0) ∧
      (∀ a, 0x50 ≤ a → a < 0x200 → s.mem.read a = 0) ∧
      (∀ k : Fin 80, s.mem.read k.val = c.font[k.val]) ∧
      (∀ h : 2 ≤ image.length, s.fetchWord = wordOfBytes image[0] image[1]) ∧
      s.dt = Timer.ofByte c.initialDelay ∧ s.st = Timer.ofByte c.initialSound ∧
      OnlyWrites [] [.memory, .delay, .sound] State.reset s) ∧
    (3584 < image.length → launch c image = .error (.romTooLarge image.length))

/-- Every launched machine meets the invariants, whatever its font, timers and image (R41, R261). -/
def Obligations.LaunchMeetsTheInvariants : Prop :=
  ∀ (c : LaunchConfig) (image : List Byte) (s : State), launch c image = .ok s → s.Inv

/-- A finished program stays finished: the next step ticks both timers and leaves `PC`, the registers and
every other part but the step's own fields as they were (R266, marked derived); an old report is gone (the
model's own field, log 2) and the inputs are used up (log 1). -/
def Obligations.FinishedProgramStaysFinished : Prop :=
  ∀ s : State, s.finished → ∃ t, step s = .next t ∧ t.finished ∧ t.pc = s.pc ∧
    t.dt = s.dt.tick s.input.elapsed ∧ t.st = s.st.tick s.input.elapsed ∧ t.report = none ∧
    OnlyWrites [] [.delay, .sound, .report, .inputs] s t
end

