-- ==== Sys2Proof/Laws/State.lean ====
section
/-! SUPPORT. What each update of the state does to each field and to each way of reading it: one lemma for
each, so that no later proof unfolds an update of the record. -/

namespace Sys2Proof.Machine

variable (s : State)

namespace State

/-! ### `setV` -/

@[simp] theorem setV_v (x : Reg) (b : Byte) : (s.setV x b).v = s.v.set x.val b := rfl
@[simp] theorem setV_i (x : Reg) (b : Byte) : (s.setV x b).i = s.i := rfl
@[simp] theorem setV_pc (x : Reg) (b : Byte) : (s.setV x b).pc = s.pc := rfl
@[simp] theorem setV_stack (x : Reg) (b : Byte) : (s.setV x b).stack = s.stack := rfl
@[simp] theorem setV_mem (x : Reg) (b : Byte) : (s.setV x b).mem = s.mem := rfl
@[simp] theorem setV_fb (x : Reg) (b : Byte) : (s.setV x b).fb = s.fb := rfl
@[simp] theorem setV_dirty (x : Reg) (b : Byte) : (s.setV x b).dirty = s.dirty := rfl
@[simp] theorem setV_dt (x : Reg) (b : Byte) : (s.setV x b).dt = s.dt := rfl
@[simp] theorem setV_st (x : Reg) (b : Byte) : (s.setV x b).st = s.st := rfl
@[simp] theorem setV_wait (x : Reg) (b : Byte) : (s.setV x b).wait = s.wait := rfl
@[simp] theorem setV_waitX (x : Reg) (b : Byte) : (s.setV x b).waitX = s.waitX := rfl
@[simp] theorem setV_prevKeys (x : Reg) (b : Byte) : (s.setV x b).prevKeys = s.prevKeys := rfl
@[simp] theorem setV_halted (x : Reg) (b : Byte) : (s.setV x b).halted = s.halted := rfl
@[simp] theorem setV_fault (x : Reg) (b : Byte) : (s.setV x b).fault = s.fault := rfl
@[simp] theorem setV_report (x : Reg) (b : Byte) : (s.setV x b).report = s.report := rfl
@[simp] theorem setV_inputs (x : Reg) (b : Byte) : (s.setV x b).inputs = s.inputs := rfl
@[simp] theorem setV_stepNo (x : Reg) (b : Byte) : (s.setV x b).stepNo = s.stepNo := rfl
@[simp] theorem setV_readByte (x : Reg) (b : Byte) (a : Word) : (s.setV x b).readByte a = s.readByte a := rfl
@[simp] theorem setV_input (x : Reg) (b : Byte) : (s.setV x b).input = s.input := rfl
@[simp] theorem setV_sp (x : Reg) (b : Byte) : (s.setV x b).sp = s.sp := rfl
@[simp] theorem setV_fetchWord (x : Reg) (b : Byte) : (s.setV x b).fetchWord = s.fetchWord := rfl

/-! ### `setFlag` -/

@[simp] theorem setFlag_i (flag : Byte) : (s.setFlag flag).i = s.i := rfl
@[simp] theorem setFlag_pc (flag : Byte) : (s.setFlag flag).pc = s.pc := rfl
@[simp] theorem setFlag_stack (flag : Byte) : (s.setFlag flag).stack = s.stack := rfl
@[simp] theorem setFlag_mem (flag : Byte) : (s.setFlag flag).mem = s.mem := rfl
@[simp] theorem setFlag_fb (flag : Byte) : (s.setFlag flag).fb = s.fb := rfl
@[simp] theorem setFlag_dirty (flag : Byte) : (s.setFlag flag).dirty = s.dirty := rfl
@[simp] theorem setFlag_dt (flag : Byte) : (s.setFlag flag).dt = s.dt := rfl
@[simp] theorem setFlag_st (flag : Byte) : (s.setFlag flag).st = s.st := rfl
@[simp] theorem setFlag_wait (flag : Byte) : (s.setFlag flag).wait = s.wait := rfl
@[simp] theorem setFlag_waitX (flag : Byte) : (s.setFlag flag).waitX = s.waitX := rfl
@[simp] theorem setFlag_prevKeys (flag : Byte) : (s.setFlag flag).prevKeys = s.prevKeys := rfl
@[simp] theorem setFlag_halted (flag : Byte) : (s.setFlag flag).halted = s.halted := rfl
@[simp] theorem setFlag_fault (flag : Byte) : (s.setFlag flag).fault = s.fault := rfl
@[simp] theorem setFlag_report (flag : Byte) : (s.setFlag flag).report = s.report := rfl
@[simp] theorem setFlag_inputs (flag : Byte) : (s.setFlag flag).inputs = s.inputs := rfl
@[simp] theorem setFlag_stepNo (flag : Byte) : (s.setFlag flag).stepNo = s.stepNo := rfl
@[simp] theorem setFlag_readByte (flag : Byte) (a : Word) : (s.setFlag flag).readByte a = s.readByte a := rfl
@[simp] theorem setFlag_input (flag : Byte) : (s.setFlag flag).input = s.input := rfl
@[simp] theorem setFlag_sp (flag : Byte) : (s.setFlag flag).sp = s.sp := rfl
@[simp] theorem setFlag_fetchWord (flag : Byte) : (s.setFlag flag).fetchWord = s.fetchWord := rfl

/-! ### `setVThenFlag` -/

@[simp] theorem setVThenFlag_i (x : Reg) (b flag : Byte) : (s.setVThenFlag x b flag).i = s.i := rfl
@[simp] theorem setVThenFlag_pc (x : Reg) (b flag : Byte) : (s.setVThenFlag x b flag).pc = s.pc := rfl
@[simp] theorem setVThenFlag_stack (x : Reg) (b flag : Byte) : (s.setVThenFlag x b flag).stack = s.stack := rfl
@[simp] theorem setVThenFlag_mem (x : Reg) (b flag : Byte) : (s.setVThenFlag x b flag).mem = s.mem := rfl
@[simp] theorem setVThenFlag_fb (x : Reg) (b flag : Byte) : (s.setVThenFlag x b flag).fb = s.fb := rfl
@[simp] theorem setVThenFlag_dirty (x : Reg) (b flag : Byte) : (s.setVThenFlag x b flag).dirty = s.dirty := rfl
@[simp] theorem setVThenFlag_dt (x : Reg) (b flag : Byte) : (s.setVThenFlag x b flag).dt = s.dt := rfl
@[simp] theorem setVThenFlag_st (x : Reg) (b flag : Byte) : (s.setVThenFlag x b flag).st = s.st := rfl
@[simp] theorem setVThenFlag_wait (x : Reg) (b flag : Byte) : (s.setVThenFlag x b flag).wait = s.wait := rfl
@[simp] theorem setVThenFlag_waitX (x : Reg) (b flag : Byte) : (s.setVThenFlag x b flag).waitX = s.waitX := rfl
@[simp] theorem setVThenFlag_prevKeys (x : Reg) (b flag : Byte) : (s.setVThenFlag x b flag).prevKeys = s.prevKeys := rfl
@[simp] theorem setVThenFlag_halted (x : Reg) (b flag : Byte) : (s.setVThenFlag x b flag).halted = s.halted := rfl
@[simp] theorem setVThenFlag_fault (x : Reg) (b flag : Byte) : (s.setVThenFlag x b flag).fault = s.fault := rfl
@[simp] theorem setVThenFlag_report (x : Reg) (b flag : Byte) : (s.setVThenFlag x b flag).report = s.report := rfl
@[simp] theorem setVThenFlag_inputs (x : Reg) (b flag : Byte) : (s.setVThenFlag x b flag).inputs = s.inputs := rfl
@[simp] theorem setVThenFlag_stepNo (x : Reg) (b flag : Byte) : (s.setVThenFlag x b flag).stepNo = s.stepNo := rfl
@[simp] theorem setVThenFlag_readByte (x : Reg) (b flag : Byte) (a : Word) : (s.setVThenFlag x b flag).readByte a = s.readByte a := rfl
@[simp] theorem setVThenFlag_input (x : Reg) (b flag : Byte) : (s.setVThenFlag x b flag).input = s.input := rfl
@[simp] theorem setVThenFlag_sp (x : Reg) (b flag : Byte) : (s.setVThenFlag x b flag).sp = s.sp := rfl
@[simp] theorem setVThenFlag_fetchWord (x : Reg) (b flag : Byte) : (s.setVThenFlag x b flag).fetchWord = s.fetchWord := rfl

/-! ### `loadRegs` -/

@[simp] theorem loadRegs_i (x : Reg) (a : Word) : (s.loadRegs x a).i = s.i := rfl
@[simp] theorem loadRegs_pc (x : Reg) (a : Word) : (s.loadRegs x a).pc = s.pc := rfl
@[simp] theorem loadRegs_stack (x : Reg) (a : Word) : (s.loadRegs x a).stack = s.stack := rfl
@[simp] theorem loadRegs_mem (x : Reg) (a : Word) : (s.loadRegs x a).mem = s.mem := rfl
@[simp] theorem loadRegs_fb (x : Reg) (a : Word) : (s.loadRegs x a).fb = s.fb := rfl
@[simp] theorem loadRegs_dirty (x : Reg) (a : Word) : (s.loadRegs x a).dirty = s.dirty := rfl
@[simp] theorem loadRegs_dt (x : Reg) (a : Word) : (s.loadRegs x a).dt = s.dt := rfl
@[simp] theorem loadRegs_st (x : Reg) (a : Word) : (s.loadRegs x a).st = s.st := rfl
@[simp] theorem loadRegs_wait (x : Reg) (a : Word) : (s.loadRegs x a).wait = s.wait := rfl
@[simp] theorem loadRegs_waitX (x : Reg) (a : Word) : (s.loadRegs x a).waitX = s.waitX := rfl
@[simp] theorem loadRegs_prevKeys (x : Reg) (a : Word) : (s.loadRegs x a).prevKeys = s.prevKeys := rfl
@[simp] theorem loadRegs_halted (x : Reg) (a : Word) : (s.loadRegs x a).halted = s.halted := rfl
@[simp] theorem loadRegs_fault (x : Reg) (a : Word) : (s.loadRegs x a).fault = s.fault := rfl
@[simp] theorem loadRegs_report (x : Reg) (a : Word) : (s.loadRegs x a).report = s.report := rfl
@[simp] theorem loadRegs_inputs (x : Reg) (a : Word) : (s.loadRegs x a).inputs = s.inputs := rfl
@[simp] theorem loadRegs_stepNo (x : Reg) (a : Word) : (s.loadRegs x a).stepNo = s.stepNo := rfl
@[simp] theorem loadRegs_readByte (x : Reg) (a : Word) (r : Word) : (s.loadRegs x a).readByte r = s.readByte r := rfl
@[simp] theorem loadRegs_input (x : Reg) (a : Word) : (s.loadRegs x a).input = s.input := rfl
@[simp] theorem loadRegs_sp (x : Reg) (a : Word) : (s.loadRegs x a).sp = s.sp := rfl
@[simp] theorem loadRegs_fetchWord (x : Reg) (a : Word) : (s.loadRegs x a).fetchWord = s.fetchWord := rfl

/-! ### `setI` -/

@[simp] theorem setI_v (a : Word) : (s.setI a).v = s.v := rfl
@[simp] theorem setI_i (a : Word) : (s.setI a).i = a := rfl
@[simp] theorem setI_pc (a : Word) : (s.setI a).pc = s.pc := rfl
@[simp] theorem setI_stack (a : Word) : (s.setI a).stack = s.stack := rfl
@[simp] theorem setI_mem (a : Word) : (s.setI a).mem = s.mem := rfl
@[simp] theorem setI_fb (a : Word) : (s.setI a).fb = s.fb := rfl
@[simp] theorem setI_dirty (a : Word) : (s.setI a).dirty = s.dirty := rfl
@[simp] theorem setI_dt (a : Word) : (s.setI a).dt = s.dt := rfl
@[simp] theorem setI_st (a : Word) : (s.setI a).st = s.st := rfl
@[simp] theorem setI_wait (a : Word) : (s.setI a).wait = s.wait := rfl
@[simp] theorem setI_waitX (a : Word) : (s.setI a).waitX = s.waitX := rfl
@[simp] theorem setI_prevKeys (a : Word) : (s.setI a).prevKeys = s.prevKeys := rfl
@[simp] theorem setI_halted (a : Word) : (s.setI a).halted = s.halted := rfl
@[simp] theorem setI_fault (a : Word) : (s.setI a).fault = s.fault := rfl
@[simp] theorem setI_report (a : Word) : (s.setI a).report = s.report := rfl
@[simp] theorem setI_inputs (a : Word) : (s.setI a).inputs = s.inputs := rfl
@[simp] theorem setI_stepNo (a : Word) : (s.setI a).stepNo = s.stepNo := rfl
@[simp] theorem setI_V (a : Word) (r : Reg) : (s.setI a).V r = s.V r := rfl
@[simp] theorem setI_readByte (a : Word) (r : Word) : (s.setI a).readByte r = s.readByte r := rfl
@[simp] theorem setI_input (a : Word) : (s.setI a).input = s.input := rfl
@[simp] theorem setI_sp (a : Word) : (s.setI a).sp = s.sp := rfl
@[simp] theorem setI_fetchWord (a : Word) : (s.setI a).fetchWord = s.fetchWord := rfl

/-! ### `jump` -/

@[simp] theorem jump_v (a : Word) : (s.jump a).v = s.v := rfl
@[simp] theorem jump_i (a : Word) : (s.jump a).i = s.i := rfl
@[simp] theorem jump_pc (a : Word) : (s.jump a).pc = a := rfl
@[simp] theorem jump_stack (a : Word) : (s.jump a).stack = s.stack := rfl
@[simp] theorem jump_mem (a : Word) : (s.jump a).mem = s.mem := rfl
@[simp] theorem jump_fb (a : Word) : (s.jump a).fb = s.fb := rfl
@[simp] theorem jump_dirty (a : Word) : (s.jump a).dirty = s.dirty := rfl
@[simp] theorem jump_dt (a : Word) : (s.jump a).dt = s.dt := rfl
@[simp] theorem jump_st (a : Word) : (s.jump a).st = s.st := rfl
@[simp] theorem jump_wait (a : Word) : (s.jump a).wait = s.wait := rfl
@[simp] theorem jump_waitX (a : Word) : (s.jump a).waitX = s.waitX := rfl
@[simp] theorem jump_prevKeys (a : Word) : (s.jump a).prevKeys = s.prevKeys := rfl
@[simp] theorem jump_halted (a : Word) : (s.jump a).halted = s.halted := rfl
@[simp] theorem jump_fault (a : Word) : (s.jump a).fault = s.fault := rfl
@[simp] theorem jump_report (a : Word) : (s.jump a).report = s.report := rfl
@[simp] theorem jump_inputs (a : Word) : (s.jump a).inputs = s.inputs := rfl
@[simp] theorem jump_stepNo (a : Word) : (s.jump a).stepNo = s.stepNo := rfl
@[simp] theorem jump_V (a : Word) (r : Reg) : (s.jump a).V r = s.V r := rfl
@[simp] theorem jump_readByte (a : Word) (r : Word) : (s.jump a).readByte r = s.readByte r := rfl
@[simp] theorem jump_input (a : Word) : (s.jump a).input = s.input := rfl
@[simp] theorem jump_sp (a : Word) : (s.jump a).sp = s.sp := rfl

/-! ### `advance` -/

@[simp] theorem advance_v : (s.advance).v = s.v := rfl
@[simp] theorem advance_i : (s.advance).i = s.i := rfl
@[simp] theorem advance_pc : (s.advance).pc = trunc12 (s.pc + 2) := rfl
@[simp] theorem advance_stack : (s.advance).stack = s.stack := rfl
@[simp] theorem advance_mem : (s.advance).mem = s.mem := rfl
@[simp] theorem advance_fb : (s.advance).fb = s.fb := rfl
@[simp] theorem advance_dirty : (s.advance).dirty = s.dirty := rfl
@[simp] theorem advance_dt : (s.advance).dt = s.dt := rfl
@[simp] theorem advance_st : (s.advance).st = s.st := rfl
@[simp] theorem advance_wait : (s.advance).wait = s.wait := rfl
@[simp] theorem advance_waitX : (s.advance).waitX = s.waitX := rfl
@[simp] theorem advance_prevKeys : (s.advance).prevKeys = s.prevKeys := rfl
@[simp] theorem advance_halted : (s.advance).halted = s.halted := rfl
@[simp] theorem advance_fault : (s.advance).fault = s.fault := rfl
@[simp] theorem advance_report : (s.advance).report = s.report := rfl
@[simp] theorem advance_inputs : (s.advance).inputs = s.inputs := rfl
@[simp] theorem advance_stepNo : (s.advance).stepNo = s.stepNo := rfl
@[simp] theorem advance_V (r : Reg) : (s.advance).V r = s.V r := rfl
@[simp] theorem advance_readByte (a : Word) : (s.advance).readByte a = s.readByte a := rfl
@[simp] theorem advance_input : (s.advance).input = s.input := rfl
@[simp] theorem advance_sp : (s.advance).sp = s.sp := rfl

/-! ### `skipIf` -/

@[simp] theorem skipIf_v (c : Bool) : (s.skipIf c).v = s.v := rfl
@[simp] theorem skipIf_i (c : Bool) : (s.skipIf c).i = s.i := rfl
@[simp] theorem skipIf_pc (c : Bool) : (s.skipIf c).pc = trunc12 (s.pc + if c then 4 else 2) := rfl
@[simp] theorem skipIf_stack (c : Bool) : (s.skipIf c).stack = s.stack := rfl
@[simp] theorem skipIf_mem (c : Bool) : (s.skipIf c).mem = s.mem := rfl
@[simp] theorem skipIf_fb (c : Bool) : (s.skipIf c).fb = s.fb := rfl
@[simp] theorem skipIf_dirty (c : Bool) : (s.skipIf c).dirty = s.dirty := rfl
@[simp] theorem skipIf_dt (c : Bool) : (s.skipIf c).dt = s.dt := rfl
@[simp] theorem skipIf_st (c : Bool) : (s.skipIf c).st = s.st := rfl
@[simp] theorem skipIf_wait (c : Bool) : (s.skipIf c).wait = s.wait := rfl
@[simp] theorem skipIf_waitX (c : Bool) : (s.skipIf c).waitX = s.waitX := rfl
@[simp] theorem skipIf_prevKeys (c : Bool) : (s.skipIf c).prevKeys = s.prevKeys := rfl
@[simp] theorem skipIf_halted (c : Bool) : (s.skipIf c).halted = s.halted := rfl
@[simp] theorem skipIf_fault (c : Bool) : (s.skipIf c).fault = s.fault := rfl
@[simp] theorem skipIf_report (c : Bool) : (s.skipIf c).report = s.report := rfl
@[simp] theorem skipIf_inputs (c : Bool) : (s.skipIf c).inputs = s.inputs := rfl
@[simp] theorem skipIf_stepNo (c : Bool) : (s.skipIf c).stepNo = s.stepNo := rfl
@[simp] theorem skipIf_V (c : Bool) (r : Reg) : (s.skipIf c).V r = s.V r := rfl
@[simp] theorem skipIf_readByte (c : Bool) (a : Word) : (s.skipIf c).readByte a = s.readByte a := rfl
@[simp] theorem skipIf_input (c : Bool) : (s.skipIf c).input = s.input := rfl
@[simp] theorem skipIf_sp (c : Bool) : (s.skipIf c).sp = s.sp := rfl

/-! ### `push` -/

@[simp] theorem push_v (a : Word) : (s.push a).v = s.v := rfl
@[simp] theorem push_i (a : Word) : (s.push a).i = s.i := rfl
@[simp] theorem push_pc (a : Word) : (s.push a).pc = s.pc := rfl
@[simp] theorem push_stack (a : Word) : (s.push a).stack = s.stack ++ [a] := rfl
@[simp] theorem push_mem (a : Word) : (s.push a).mem = s.mem := rfl
@[simp] theorem push_fb (a : Word) : (s.push a).fb = s.fb := rfl
@[simp] theorem push_dirty (a : Word) : (s.push a).dirty = s.dirty := rfl
@[simp] theorem push_dt (a : Word) : (s.push a).dt = s.dt := rfl
@[simp] theorem push_st (a : Word) : (s.push a).st = s.st := rfl
@[simp] theorem push_wait (a : Word) : (s.push a).wait = s.wait := rfl
@[simp] theorem push_waitX (a : Word) : (s.push a).waitX = s.waitX := rfl
@[simp] theorem push_prevKeys (a : Word) : (s.push a).prevKeys = s.prevKeys := rfl
@[simp] theorem push_halted (a : Word) : (s.push a).halted = s.halted := rfl
@[simp] theorem push_fault (a : Word) : (s.push a).fault = s.fault := rfl
@[simp] theorem push_report (a : Word) : (s.push a).report = s.report := rfl
@[simp] theorem push_inputs (a : Word) : (s.push a).inputs = s.inputs := rfl
@[simp] theorem push_stepNo (a : Word) : (s.push a).stepNo = s.stepNo := rfl
@[simp] theorem push_V (a : Word) (r : Reg) : (s.push a).V r = s.V r := rfl
@[simp] theorem push_readByte (a : Word) (r : Word) : (s.push a).readByte r = s.readByte r := rfl
@[simp] theorem push_input (a : Word) : (s.push a).input = s.input := rfl
@[simp] theorem push_fetchWord (a : Word) : (s.push a).fetchWord = s.fetchWord := rfl

/-! ### `pop` -/

@[simp] theorem pop_v : (s.pop).v = s.v := rfl
@[simp] theorem pop_i : (s.pop).i = s.i := rfl
@[simp] theorem pop_pc : (s.pop).pc = s.pc := rfl
@[simp] theorem pop_stack : (s.pop).stack = s.stack.dropLast := rfl
@[simp] theorem pop_mem : (s.pop).mem = s.mem := rfl
@[simp] theorem pop_fb : (s.pop).fb = s.fb := rfl
@[simp] theorem pop_dirty : (s.pop).dirty = s.dirty := rfl
@[simp] theorem pop_dt : (s.pop).dt = s.dt := rfl
@[simp] theorem pop_st : (s.pop).st = s.st := rfl
@[simp] theorem pop_wait : (s.pop).wait = s.wait := rfl
@[simp] theorem pop_waitX : (s.pop).waitX = s.waitX := rfl
@[simp] theorem pop_prevKeys : (s.pop).prevKeys = s.prevKeys := rfl
@[simp] theorem pop_halted : (s.pop).halted = s.halted := rfl
@[simp] theorem pop_fault : (s.pop).fault = s.fault := rfl
@[simp] theorem pop_report : (s.pop).report = s.report := rfl
@[simp] theorem pop_inputs : (s.pop).inputs = s.inputs := rfl
@[simp] theorem pop_stepNo : (s.pop).stepNo = s.stepNo := rfl
@[simp] theorem pop_V (r : Reg) : (s.pop).V r = s.V r := rfl
@[simp] theorem pop_readByte (a : Word) : (s.pop).readByte a = s.readByte a := rfl
@[simp] theorem pop_input : (s.pop).input = s.input := rfl
@[simp] theorem pop_fetchWord : (s.pop).fetchWord = s.fetchWord := rfl

/-! ### `writeByte` -/

@[simp] theorem writeByte_v (a : Word) (b : Byte) : (s.writeByte a b).v = s.v := rfl
@[simp] theorem writeByte_i (a : Word) (b : Byte) : (s.writeByte a b).i = s.i := rfl
@[simp] theorem writeByte_pc (a : Word) (b : Byte) : (s.writeByte a b).pc = s.pc := rfl
@[simp] theorem writeByte_stack (a : Word) (b : Byte) : (s.writeByte a b).stack = s.stack := rfl
@[simp] theorem writeByte_mem (a : Word) (b : Byte) : (s.writeByte a b).mem = s.mem.write (ea a) b := rfl
@[simp] theorem writeByte_fb (a : Word) (b : Byte) : (s.writeByte a b).fb = s.fb := rfl
@[simp] theorem writeByte_dirty (a : Word) (b : Byte) : (s.writeByte a b).dirty = s.dirty := rfl
@[simp] theorem writeByte_dt (a : Word) (b : Byte) : (s.writeByte a b).dt = s.dt := rfl
@[simp] theorem writeByte_st (a : Word) (b : Byte) : (s.writeByte a b).st = s.st := rfl
@[simp] theorem writeByte_wait (a : Word) (b : Byte) : (s.writeByte a b).wait = s.wait := rfl
@[simp] theorem writeByte_waitX (a : Word) (b : Byte) : (s.writeByte a b).waitX = s.waitX := rfl
@[simp] theorem writeByte_prevKeys (a : Word) (b : Byte) : (s.writeByte a b).prevKeys = s.prevKeys := rfl
@[simp] theorem writeByte_halted (a : Word) (b : Byte) : (s.writeByte a b).halted = s.halted := rfl
@[simp] theorem writeByte_fault (a : Word) (b : Byte) : (s.writeByte a b).fault = s.fault := rfl
@[simp] theorem writeByte_report (a : Word) (b : Byte) : (s.writeByte a b).report = s.report := rfl
@[simp] theorem writeByte_inputs (a : Word) (b : Byte) : (s.writeByte a b).inputs = s.inputs := rfl
@[simp] theorem writeByte_stepNo (a : Word) (b : Byte) : (s.writeByte a b).stepNo = s.stepNo := rfl
@[simp] theorem writeByte_V (a : Word) (b : Byte) (r : Reg) : (s.writeByte a b).V r = s.V r := rfl
@[simp] theorem writeByte_input (a : Word) (b : Byte) : (s.writeByte a b).input = s.input := rfl
@[simp] theorem writeByte_sp (a : Word) (b : Byte) : (s.writeByte a b).sp = s.sp := rfl

/-! ### `writeBytes` -/

@[simp] theorem writeBytes_v (a : Word) (bs : List Byte) : (s.writeBytes a bs).v = s.v := by
  induction bs generalizing s a with
  | nil => rfl
  | cons b bs ih => exact ih (s.writeByte a b) (a + 1)
@[simp] theorem writeBytes_i (a : Word) (bs : List Byte) : (s.writeBytes a bs).i = s.i := by
  induction bs generalizing s a with
  | nil => rfl
  | cons b bs ih => exact ih (s.writeByte a b) (a + 1)
@[simp] theorem writeBytes_pc (a : Word) (bs : List Byte) : (s.writeBytes a bs).pc = s.pc := by
  induction bs generalizing s a with
  | nil => rfl
  | cons b bs ih => exact ih (s.writeByte a b) (a + 1)
@[simp] theorem writeBytes_stack (a : Word) (bs : List Byte) : (s.writeBytes a bs).stack = s.stack := by
  induction bs generalizing s a with
  | nil => rfl
  | cons b bs ih => exact ih (s.writeByte a b) (a + 1)
@[simp] theorem writeBytes_fb (a : Word) (bs : List Byte) : (s.writeBytes a bs).fb = s.fb := by
  induction bs generalizing s a with
  | nil => rfl
  | cons b bs ih => exact ih (s.writeByte a b) (a + 1)
@[simp] theorem writeBytes_dirty (a : Word) (bs : List Byte) : (s.writeBytes a bs).dirty = s.dirty := by
  induction bs generalizing s a with
  | nil => rfl
  | cons b bs ih => exact ih (s.writeByte a b) (a + 1)
@[simp] theorem writeBytes_dt (a : Word) (bs : List Byte) : (s.writeBytes a bs).dt = s.dt := by
  induction bs generalizing s a with
  | nil => rfl
  | cons b bs ih => exact ih (s.writeByte a b) (a + 1)
@[simp] theorem writeBytes_st (a : Word) (bs : List Byte) : (s.writeBytes a bs).st = s.st := by
  induction bs generalizing s a with
  | nil => rfl
  | cons b bs ih => exact ih (s.writeByte a b) (a + 1)
@[simp] theorem writeBytes_wait (a : Word) (bs : List Byte) : (s.writeBytes a bs).wait = s.wait := by
  induction bs generalizing s a with
  | nil => rfl
  | cons b bs ih => exact ih (s.writeByte a b) (a + 1)
@[simp] theorem writeBytes_waitX (a : Word) (bs : List Byte) : (s.writeBytes a bs).waitX = s.waitX := by
  induction bs generalizing s a with
  | nil => rfl
  | cons b bs ih => exact ih (s.writeByte a b) (a + 1)
@[simp] theorem writeBytes_prevKeys (a : Word) (bs : List Byte) : (s.writeBytes a bs).prevKeys = s.prevKeys := by
  induction bs generalizing s a with
  | nil => rfl
  | cons b bs ih => exact ih (s.writeByte a b) (a + 1)
@[simp] theorem writeBytes_halted (a : Word) (bs : List Byte) : (s.writeBytes a bs).halted = s.halted := by
  induction bs generalizing s a with
  | nil => rfl
  | cons b bs ih => exact ih (s.writeByte a b) (a + 1)
@[simp] theorem writeBytes_fault (a : Word) (bs : List Byte) : (s.writeBytes a bs).fault = s.fault := by
  induction bs generalizing s a with
  | nil => rfl
  | cons b bs ih => exact ih (s.writeByte a b) (a + 1)
@[simp] theorem writeBytes_report (a : Word) (bs : List Byte) : (s.writeBytes a bs).report = s.report := by
  induction bs generalizing s a with
  | nil => rfl
  | cons b bs ih => exact ih (s.writeByte a b) (a + 1)
@[simp] theorem writeBytes_inputs (a : Word) (bs : List Byte) : (s.writeBytes a bs).inputs = s.inputs := by
  induction bs generalizing s a with
  | nil => rfl
  | cons b bs ih => exact ih (s.writeByte a b) (a + 1)
@[simp] theorem writeBytes_stepNo (a : Word) (bs : List Byte) : (s.writeBytes a bs).stepNo = s.stepNo := by
  induction bs generalizing s a with
  | nil => rfl
  | cons b bs ih => exact ih (s.writeByte a b) (a + 1)
@[simp] theorem writeBytes_V (a : Word) (bs : List Byte) (r : Reg) : (s.writeBytes a bs).V r = s.V r := by
  simp [V]
@[simp] theorem writeBytes_input (a : Word) (bs : List Byte) : (s.writeBytes a bs).input = s.input := by
  simp [input]
@[simp] theorem writeBytes_sp (a : Word) (bs : List Byte) : (s.writeBytes a bs).sp = s.sp := by
  simp [sp]

/-! ### `showFrame` -/

@[simp] theorem showFrame_v (fb : Framebuffer) : (s.showFrame fb).v = s.v := rfl
@[simp] theorem showFrame_i (fb : Framebuffer) : (s.showFrame fb).i = s.i := rfl
@[simp] theorem showFrame_pc (fb : Framebuffer) : (s.showFrame fb).pc = s.pc := rfl
@[simp] theorem showFrame_stack (fb : Framebuffer) : (s.showFrame fb).stack = s.stack := rfl
@[simp] theorem showFrame_mem (fb : Framebuffer) : (s.showFrame fb).mem = s.mem := rfl
@[simp] theorem showFrame_fb (fb : Framebuffer) : (s.showFrame fb).fb = fb := rfl
@[simp] theorem showFrame_dirty (fb : Framebuffer) : (s.showFrame fb).dirty = true := rfl
@[simp] theorem showFrame_dt (fb : Framebuffer) : (s.showFrame fb).dt = s.dt := rfl
@[simp] theorem showFrame_st (fb : Framebuffer) : (s.showFrame fb).st = s.st := rfl
@[simp] theorem showFrame_wait (fb : Framebuffer) : (s.showFrame fb).wait = s.wait := rfl
@[simp] theorem showFrame_waitX (fb : Framebuffer) : (s.showFrame fb).waitX = s.waitX := rfl
@[simp] theorem showFrame_prevKeys (fb : Framebuffer) : (s.showFrame fb).prevKeys = s.prevKeys := rfl
@[simp] theorem showFrame_halted (fb : Framebuffer) : (s.showFrame fb).halted = s.halted := rfl
@[simp] theorem showFrame_fault (fb : Framebuffer) : (s.showFrame fb).fault = s.fault := rfl
@[simp] theorem showFrame_report (fb : Framebuffer) : (s.showFrame fb).report = s.report := rfl
@[simp] theorem showFrame_inputs (fb : Framebuffer) : (s.showFrame fb).inputs = s.inputs := rfl
@[simp] theorem showFrame_stepNo (fb : Framebuffer) : (s.showFrame fb).stepNo = s.stepNo := rfl
@[simp] theorem showFrame_V (fb : Framebuffer) (r : Reg) : (s.showFrame fb).V r = s.V r := rfl
@[simp] theorem showFrame_readByte (fb : Framebuffer) (a : Word) : (s.showFrame fb).readByte a = s.readByte a := rfl
@[simp] theorem showFrame_input (fb : Framebuffer) : (s.showFrame fb).input = s.input := rfl
@[simp] theorem showFrame_sp (fb : Framebuffer) : (s.showFrame fb).sp = s.sp := rfl
@[simp] theorem showFrame_fetchWord (fb : Framebuffer) : (s.showFrame fb).fetchWord = s.fetchWord := rfl

/-! ### `takeFault` -/

@[simp] theorem takeFault_v (cause : Word → Fault) : (s.takeFault cause).v = s.v := rfl
@[simp] theorem takeFault_i (cause : Word → Fault) : (s.takeFault cause).i = s.i := rfl
@[simp] theorem takeFault_pc (cause : Word → Fault) : (s.takeFault cause).pc = s.pc := rfl
@[simp] theorem takeFault_stack (cause : Word → Fault) : (s.takeFault cause).stack = s.stack := rfl
@[simp] theorem takeFault_mem (cause : Word → Fault) : (s.takeFault cause).mem = s.mem := rfl
@[simp] theorem takeFault_fb (cause : Word → Fault) : (s.takeFault cause).fb = s.fb := rfl
@[simp] theorem takeFault_dirty (cause : Word → Fault) : (s.takeFault cause).dirty = s.dirty := rfl
@[simp] theorem takeFault_dt (cause : Word → Fault) : (s.takeFault cause).dt = s.dt := rfl
@[simp] theorem takeFault_st (cause : Word → Fault) : (s.takeFault cause).st = s.st := rfl
@[simp] theorem takeFault_wait (cause : Word → Fault) : (s.takeFault cause).wait = s.wait := rfl
@[simp] theorem takeFault_waitX (cause : Word → Fault) : (s.takeFault cause).waitX = s.waitX := rfl
@[simp] theorem takeFault_prevKeys (cause : Word → Fault) : (s.takeFault cause).prevKeys = s.prevKeys := rfl
@[simp] theorem takeFault_halted (cause : Word → Fault) : (s.takeFault cause).halted = true := rfl
@[simp] theorem takeFault_fault (cause : Word → Fault) : (s.takeFault cause).fault = some (cause s.pc) := rfl
@[simp] theorem takeFault_report (cause : Word → Fault) : (s.takeFault cause).report = s.report := rfl
@[simp] theorem takeFault_inputs (cause : Word → Fault) : (s.takeFault cause).inputs = s.inputs := rfl
@[simp] theorem takeFault_stepNo (cause : Word → Fault) : (s.takeFault cause).stepNo = s.stepNo := rfl
@[simp] theorem takeFault_V (cause : Word → Fault) (r : Reg) : (s.takeFault cause).V r = s.V r := rfl
@[simp] theorem takeFault_readByte (cause : Word → Fault) (a : Word) : (s.takeFault cause).readByte a = s.readByte a := rfl
@[simp] theorem takeFault_input (cause : Word → Fault) : (s.takeFault cause).input = s.input := rfl
@[simp] theorem takeFault_sp (cause : Word → Fault) : (s.takeFault cause).sp = s.sp := rfl
@[simp] theorem takeFault_fetchWord (cause : Word → Fault) : (s.takeFault cause).fetchWord = s.fetchWord := rfl

/-! ### `unrecognized` -/

@[simp] theorem unrecognized_v (w : Word) : (s.unrecognized w).v = s.v := rfl
@[simp] theorem unrecognized_i (w : Word) : (s.unrecognized w).i = s.i := rfl
@[simp] theorem unrecognized_pc (w : Word) : (s.unrecognized w).pc = trunc12 (s.pc + 2) := rfl
@[simp] theorem unrecognized_stack (w : Word) : (s.unrecognized w).stack = s.stack := rfl
@[simp] theorem unrecognized_mem (w : Word) : (s.unrecognized w).mem = s.mem := rfl
@[simp] theorem unrecognized_fb (w : Word) : (s.unrecognized w).fb = s.fb := rfl
@[simp] theorem unrecognized_dirty (w : Word) : (s.unrecognized w).dirty = s.dirty := rfl
@[simp] theorem unrecognized_dt (w : Word) : (s.unrecognized w).dt = s.dt := rfl
@[simp] theorem unrecognized_st (w : Word) : (s.unrecognized w).st = s.st := rfl
@[simp] theorem unrecognized_wait (w : Word) : (s.unrecognized w).wait = s.wait := rfl
@[simp] theorem unrecognized_waitX (w : Word) : (s.unrecognized w).waitX = s.waitX := rfl
@[simp] theorem unrecognized_prevKeys (w : Word) : (s.unrecognized w).prevKeys = s.prevKeys := rfl
@[simp] theorem unrecognized_halted (w : Word) : (s.unrecognized w).halted = s.halted := rfl
@[simp] theorem unrecognized_fault (w : Word) : (s.unrecognized w).fault = s.fault := rfl
@[simp] theorem unrecognized_report (w : Word) : (s.unrecognized w).report = some { pc := s.pc, word := w } := rfl
@[simp] theorem unrecognized_inputs (w : Word) : (s.unrecognized w).inputs = s.inputs := rfl
@[simp] theorem unrecognized_stepNo (w : Word) : (s.unrecognized w).stepNo = s.stepNo := rfl
@[simp] theorem unrecognized_V (w : Word) (r : Reg) : (s.unrecognized w).V r = s.V r := rfl
@[simp] theorem unrecognized_readByte (w : Word) (a : Word) : (s.unrecognized w).readByte a = s.readByte a := rfl
@[simp] theorem unrecognized_input (w : Word) : (s.unrecognized w).input = s.input := rfl
@[simp] theorem unrecognized_sp (w : Word) : (s.unrecognized w).sp = s.sp := rfl

/-! ### `tick` -/

@[simp] theorem tick_v (e : Seconds) : (s.tick e).v = s.v := rfl
@[simp] theorem tick_i (e : Seconds) : (s.tick e).i = s.i := rfl
@[simp] theorem tick_pc (e : Seconds) : (s.tick e).pc = s.pc := rfl
@[simp] theorem tick_stack (e : Seconds) : (s.tick e).stack = s.stack := rfl
@[simp] theorem tick_mem (e : Seconds) : (s.tick e).mem = s.mem := rfl
@[simp] theorem tick_fb (e : Seconds) : (s.tick e).fb = s.fb := rfl
@[simp] theorem tick_dirty (e : Seconds) : (s.tick e).dirty = s.dirty := rfl
@[simp] theorem tick_dt (e : Seconds) : (s.tick e).dt = s.dt.tick e := rfl
@[simp] theorem tick_st (e : Seconds) : (s.tick e).st = s.st.tick e := rfl
@[simp] theorem tick_wait (e : Seconds) : (s.tick e).wait = s.wait := rfl
@[simp] theorem tick_waitX (e : Seconds) : (s.tick e).waitX = s.waitX := rfl
@[simp] theorem tick_prevKeys (e : Seconds) : (s.tick e).prevKeys = s.prevKeys := rfl
@[simp] theorem tick_halted (e : Seconds) : (s.tick e).halted = s.halted := rfl
@[simp] theorem tick_fault (e : Seconds) : (s.tick e).fault = s.fault := rfl
@[simp] theorem tick_report (e : Seconds) : (s.tick e).report = s.report := rfl
@[simp] theorem tick_inputs (e : Seconds) : (s.tick e).inputs = s.inputs := rfl
@[simp] theorem tick_stepNo (e : Seconds) : (s.tick e).stepNo = s.stepNo := rfl
@[simp] theorem tick_V (e : Seconds) (r : Reg) : (s.tick e).V r = s.V r := rfl
@[simp] theorem tick_readByte (e : Seconds) (a : Word) : (s.tick e).readByte a = s.readByte a := rfl
@[simp] theorem tick_input (e : Seconds) : (s.tick e).input = s.input := rfl
@[simp] theorem tick_sp (e : Seconds) : (s.tick e).sp = s.sp := rfl
@[simp] theorem tick_fetchWord (e : Seconds) : (s.tick e).fetchWord = s.fetchWord := rfl

/-! ### `setDelay` -/

@[simp] theorem setDelay_v (b : Byte) : (s.setDelay b).v = s.v := rfl
@[simp] theorem setDelay_i (b : Byte) : (s.setDelay b).i = s.i := rfl
@[simp] theorem setDelay_pc (b : Byte) : (s.setDelay b).pc = s.pc := rfl
@[simp] theorem setDelay_stack (b : Byte) : (s.setDelay b).stack = s.stack := rfl
@[simp] theorem setDelay_mem (b : Byte) : (s.setDelay b).mem = s.mem := rfl
@[simp] theorem setDelay_fb (b : Byte) : (s.setDelay b).fb = s.fb := rfl
@[simp] theorem setDelay_dirty (b : Byte) : (s.setDelay b).dirty = s.dirty := rfl
@[simp] theorem setDelay_dt (b : Byte) : (s.setDelay b).dt = Timer.ofByte b := rfl
@[simp] theorem setDelay_st (b : Byte) : (s.setDelay b).st = s.st := rfl
@[simp] theorem setDelay_wait (b : Byte) : (s.setDelay b).wait = s.wait := rfl
@[simp] theorem setDelay_waitX (b : Byte) : (s.setDelay b).waitX = s.waitX := rfl
@[simp] theorem setDelay_prevKeys (b : Byte) : (s.setDelay b).prevKeys = s.prevKeys := rfl
@[simp] theorem setDelay_halted (b : Byte) : (s.setDelay b).halted = s.halted := rfl
@[simp] theorem setDelay_fault (b : Byte) : (s.setDelay b).fault = s.fault := rfl
@[simp] theorem setDelay_report (b : Byte) : (s.setDelay b).report = s.report := rfl
@[simp] theorem setDelay_inputs (b : Byte) : (s.setDelay b).inputs = s.inputs := rfl
@[simp] theorem setDelay_stepNo (b : Byte) : (s.setDelay b).stepNo = s.stepNo := rfl
@[simp] theorem setDelay_V (b : Byte) (r : Reg) : (s.setDelay b).V r = s.V r := rfl
@[simp] theorem setDelay_readByte (b : Byte) (a : Word) : (s.setDelay b).readByte a = s.readByte a := rfl
@[simp] theorem setDelay_input (b : Byte) : (s.setDelay b).input = s.input := rfl
@[simp] theorem setDelay_sp (b : Byte) : (s.setDelay b).sp = s.sp := rfl
@[simp] theorem setDelay_fetchWord (b : Byte) : (s.setDelay b).fetchWord = s.fetchWord := rfl

/-! ### `setSound` -/

@[simp] theorem setSound_v (b : Byte) : (s.setSound b).v = s.v := rfl
@[simp] theorem setSound_i (b : Byte) : (s.setSound b).i = s.i := rfl
@[simp] theorem setSound_pc (b : Byte) : (s.setSound b).pc = s.pc := rfl
@[simp] theorem setSound_stack (b : Byte) : (s.setSound b).stack = s.stack := rfl
@[simp] theorem setSound_mem (b : Byte) : (s.setSound b).mem = s.mem := rfl
@[simp] theorem setSound_fb (b : Byte) : (s.setSound b).fb = s.fb := rfl
@[simp] theorem setSound_dirty (b : Byte) : (s.setSound b).dirty = s.dirty := rfl
@[simp] theorem setSound_dt (b : Byte) : (s.setSound b).dt = s.dt := rfl
@[simp] theorem setSound_st (b : Byte) : (s.setSound b).st = Timer.ofByte b := rfl
@[simp] theorem setSound_wait (b : Byte) : (s.setSound b).wait = s.wait := rfl
@[simp] theorem setSound_waitX (b : Byte) : (s.setSound b).waitX = s.waitX := rfl
@[simp] theorem setSound_prevKeys (b : Byte) : (s.setSound b).prevKeys = s.prevKeys := rfl
@[simp] theorem setSound_halted (b : Byte) : (s.setSound b).halted = s.halted := rfl
@[simp] theorem setSound_fault (b : Byte) : (s.setSound b).fault = s.fault := rfl
@[simp] theorem setSound_report (b : Byte) : (s.setSound b).report = s.report := rfl
@[simp] theorem setSound_inputs (b : Byte) : (s.setSound b).inputs = s.inputs := rfl
@[simp] theorem setSound_stepNo (b : Byte) : (s.setSound b).stepNo = s.stepNo := rfl
@[simp] theorem setSound_V (b : Byte) (r : Reg) : (s.setSound b).V r = s.V r := rfl
@[simp] theorem setSound_readByte (b : Byte) (a : Word) : (s.setSound b).readByte a = s.readByte a := rfl
@[simp] theorem setSound_input (b : Byte) : (s.setSound b).input = s.input := rfl
@[simp] theorem setSound_sp (b : Byte) : (s.setSound b).sp = s.sp := rfl
@[simp] theorem setSound_fetchWord (b : Byte) : (s.setSound b).fetchWord = s.fetchWord := rfl

/-! ### `awaitKey` -/

@[simp] theorem awaitKey_v (x : Reg) : (s.awaitKey x).v = s.v := rfl
@[simp] theorem awaitKey_i (x : Reg) : (s.awaitKey x).i = s.i := rfl
@[simp] theorem awaitKey_pc (x : Reg) : (s.awaitKey x).pc = s.pc := rfl
@[simp] theorem awaitKey_stack (x : Reg) : (s.awaitKey x).stack = s.stack := rfl
@[simp] theorem awaitKey_mem (x : Reg) : (s.awaitKey x).mem = s.mem := rfl
@[simp] theorem awaitKey_fb (x : Reg) : (s.awaitKey x).fb = s.fb := rfl
@[simp] theorem awaitKey_dirty (x : Reg) : (s.awaitKey x).dirty = s.dirty := rfl
@[simp] theorem awaitKey_dt (x : Reg) : (s.awaitKey x).dt = s.dt := rfl
@[simp] theorem awaitKey_st (x : Reg) : (s.awaitKey x).st = s.st := rfl
@[simp] theorem awaitKey_wait (x : Reg) : (s.awaitKey x).wait = true := rfl
@[simp] theorem awaitKey_waitX (x : Reg) : (s.awaitKey x).waitX = x := rfl
@[simp] theorem awaitKey_prevKeys (x : Reg) : (s.awaitKey x).prevKeys = s.input.keys := rfl
@[simp] theorem awaitKey_halted (x : Reg) : (s.awaitKey x).halted = s.halted := rfl
@[simp] theorem awaitKey_fault (x : Reg) : (s.awaitKey x).fault = s.fault := rfl
@[simp] theorem awaitKey_report (x : Reg) : (s.awaitKey x).report = s.report := rfl
@[simp] theorem awaitKey_inputs (x : Reg) : (s.awaitKey x).inputs = s.inputs := rfl
@[simp] theorem awaitKey_stepNo (x : Reg) : (s.awaitKey x).stepNo = s.stepNo := rfl
@[simp] theorem awaitKey_V (x : Reg) (r : Reg) : (s.awaitKey x).V r = s.V r := rfl
@[simp] theorem awaitKey_readByte (x : Reg) (a : Word) : (s.awaitKey x).readByte a = s.readByte a := rfl
@[simp] theorem awaitKey_input (x : Reg) : (s.awaitKey x).input = s.input := rfl
@[simp] theorem awaitKey_sp (x : Reg) : (s.awaitKey x).sp = s.sp := rfl
@[simp] theorem awaitKey_fetchWord (x : Reg) : (s.awaitKey x).fetchWord = s.fetchWord := rfl

/-! ### `keepKeys` -/

@[simp] theorem keepKeys_v : (s.keepKeys).v = s.v := rfl
@[simp] theorem keepKeys_i : (s.keepKeys).i = s.i := rfl
@[simp] theorem keepKeys_pc : (s.keepKeys).pc = s.pc := rfl
@[simp] theorem keepKeys_stack : (s.keepKeys).stack = s.stack := rfl
@[simp] theorem keepKeys_mem : (s.keepKeys).mem = s.mem := rfl
@[simp] theorem keepKeys_fb : (s.keepKeys).fb = s.fb := rfl
@[simp] theorem keepKeys_dirty : (s.keepKeys).dirty = s.dirty := rfl
@[simp] theorem keepKeys_dt : (s.keepKeys).dt = s.dt := rfl
@[simp] theorem keepKeys_st : (s.keepKeys).st = s.st := rfl
@[simp] theorem keepKeys_wait : (s.keepKeys).wait = s.wait := rfl
@[simp] theorem keepKeys_waitX : (s.keepKeys).waitX = s.waitX := rfl
@[simp] theorem keepKeys_prevKeys : (s.keepKeys).prevKeys = s.input.keys := rfl
@[simp] theorem keepKeys_halted : (s.keepKeys).halted = s.halted := rfl
@[simp] theorem keepKeys_fault : (s.keepKeys).fault = s.fault := rfl
@[simp] theorem keepKeys_report : (s.keepKeys).report = s.report := rfl
@[simp] theorem keepKeys_inputs : (s.keepKeys).inputs = s.inputs := rfl
@[simp] theorem keepKeys_stepNo : (s.keepKeys).stepNo = s.stepNo := rfl
@[simp] theorem keepKeys_V (r : Reg) : (s.keepKeys).V r = s.V r := rfl
@[simp] theorem keepKeys_readByte (a : Word) : (s.keepKeys).readByte a = s.readByte a := rfl
@[simp] theorem keepKeys_input : (s.keepKeys).input = s.input := rfl
@[simp] theorem keepKeys_sp : (s.keepKeys).sp = s.sp := rfl
@[simp] theorem keepKeys_fetchWord : (s.keepKeys).fetchWord = s.fetchWord := rfl

/-! ### `endWait` -/

@[simp] theorem endWait_v : (s.endWait).v = s.v := rfl
@[simp] theorem endWait_i : (s.endWait).i = s.i := rfl
@[simp] theorem endWait_pc : (s.endWait).pc = s.pc := rfl
@[simp] theorem endWait_stack : (s.endWait).stack = s.stack := rfl
@[simp] theorem endWait_mem : (s.endWait).mem = s.mem := rfl
@[simp] theorem endWait_fb : (s.endWait).fb = s.fb := rfl
@[simp] theorem endWait_dirty : (s.endWait).dirty = s.dirty := rfl
@[simp] theorem endWait_dt : (s.endWait).dt = s.dt := rfl
@[simp] theorem endWait_st : (s.endWait).st = s.st := rfl
@[simp] theorem endWait_wait : (s.endWait).wait = false := rfl
@[simp] theorem endWait_waitX : (s.endWait).waitX = s.waitX := rfl
@[simp] theorem endWait_prevKeys : (s.endWait).prevKeys = s.prevKeys := rfl
@[simp] theorem endWait_halted : (s.endWait).halted = s.halted := rfl
@[simp] theorem endWait_fault : (s.endWait).fault = s.fault := rfl
@[simp] theorem endWait_report : (s.endWait).report = s.report := rfl
@[simp] theorem endWait_inputs : (s.endWait).inputs = s.inputs := rfl
@[simp] theorem endWait_stepNo : (s.endWait).stepNo = s.stepNo := rfl
@[simp] theorem endWait_V (r : Reg) : (s.endWait).V r = s.V r := rfl
@[simp] theorem endWait_readByte (a : Word) : (s.endWait).readByte a = s.readByte a := rfl
@[simp] theorem endWait_input : (s.endWait).input = s.input := rfl
@[simp] theorem endWait_sp : (s.endWait).sp = s.sp := rfl
@[simp] theorem endWait_fetchWord : (s.endWait).fetchWord = s.fetchWord := rfl

/-! ### `readyToFetch` -/

@[simp] theorem readyToFetch_v : (s.readyToFetch).v = s.v := rfl
@[simp] theorem readyToFetch_i : (s.readyToFetch).i = s.i := rfl
@[simp] theorem readyToFetch_pc : (s.readyToFetch).pc = s.pc := rfl
@[simp] theorem readyToFetch_stack : (s.readyToFetch).stack = s.stack := rfl
@[simp] theorem readyToFetch_mem : (s.readyToFetch).mem = s.mem := rfl
@[simp] theorem readyToFetch_fb : (s.readyToFetch).fb = s.fb := rfl
@[simp] theorem readyToFetch_dirty : (s.readyToFetch).dirty = s.dirty := rfl
@[simp] theorem readyToFetch_dt : (s.readyToFetch).dt = s.dt := rfl
@[simp] theorem readyToFetch_st : (s.readyToFetch).st = s.st := rfl
@[simp] theorem readyToFetch_wait : (s.readyToFetch).wait = false := rfl
@[simp] theorem readyToFetch_waitX : (s.readyToFetch).waitX = s.waitX := rfl
@[simp] theorem readyToFetch_prevKeys : (s.readyToFetch).prevKeys = s.prevKeys := rfl
@[simp] theorem readyToFetch_halted : (s.readyToFetch).halted = false := rfl
@[simp] theorem readyToFetch_fault : (s.readyToFetch).fault = none := rfl
@[simp] theorem readyToFetch_report : (s.readyToFetch).report = s.report := rfl
@[simp] theorem readyToFetch_inputs : (s.readyToFetch).inputs = s.inputs := rfl
@[simp] theorem readyToFetch_stepNo : (s.readyToFetch).stepNo = s.stepNo := rfl
@[simp] theorem readyToFetch_V (r : Reg) : (s.readyToFetch).V r = s.V r := rfl
@[simp] theorem readyToFetch_readByte (a : Word) : (s.readyToFetch).readByte a = s.readByte a := rfl
@[simp] theorem readyToFetch_input : (s.readyToFetch).input = s.input := rfl
@[simp] theorem readyToFetch_sp : (s.readyToFetch).sp = s.sp := rfl
@[simp] theorem readyToFetch_fetchWord : (s.readyToFetch).fetchWord = s.fetchWord := rfl

/-! ### `cleanFrame` -/

@[simp] theorem cleanFrame_v : (s.cleanFrame).v = s.v := rfl
@[simp] theorem cleanFrame_i : (s.cleanFrame).i = s.i := rfl
@[simp] theorem cleanFrame_pc : (s.cleanFrame).pc = s.pc := rfl
@[simp] theorem cleanFrame_stack : (s.cleanFrame).stack = s.stack := rfl
@[simp] theorem cleanFrame_mem : (s.cleanFrame).mem = s.mem := rfl
@[simp] theorem cleanFrame_fb : (s.cleanFrame).fb = s.fb := rfl
@[simp] theorem cleanFrame_dirty : (s.cleanFrame).dirty = false := rfl
@[simp] theorem cleanFrame_dt : (s.cleanFrame).dt = s.dt := rfl
@[simp] theorem cleanFrame_st : (s.cleanFrame).st = s.st := rfl
@[simp] theorem cleanFrame_wait : (s.cleanFrame).wait = s.wait := rfl
@[simp] theorem cleanFrame_waitX : (s.cleanFrame).waitX = s.waitX := rfl
@[simp] theorem cleanFrame_prevKeys : (s.cleanFrame).prevKeys = s.prevKeys := rfl
@[simp] theorem cleanFrame_halted : (s.cleanFrame).halted = s.halted := rfl
@[simp] theorem cleanFrame_fault : (s.cleanFrame).fault = s.fault := rfl
@[simp] theorem cleanFrame_report : (s.cleanFrame).report = s.report := rfl
@[simp] theorem cleanFrame_inputs : (s.cleanFrame).inputs = s.inputs := rfl
@[simp] theorem cleanFrame_stepNo : (s.cleanFrame).stepNo = s.stepNo := rfl
@[simp] theorem cleanFrame_V (r : Reg) : (s.cleanFrame).V r = s.V r := rfl
@[simp] theorem cleanFrame_readByte (a : Word) : (s.cleanFrame).readByte a = s.readByte a := rfl
@[simp] theorem cleanFrame_input : (s.cleanFrame).input = s.input := rfl
@[simp] theorem cleanFrame_sp : (s.cleanFrame).sp = s.sp := rfl
@[simp] theorem cleanFrame_fetchWord : (s.cleanFrame).fetchWord = s.fetchWord := rfl

/-! ### `beginStep` -/

@[simp] theorem beginStep_v : (s.beginStep).v = s.v := rfl
@[simp] theorem beginStep_i : (s.beginStep).i = s.i := rfl
@[simp] theorem beginStep_pc : (s.beginStep).pc = s.pc := rfl
@[simp] theorem beginStep_stack : (s.beginStep).stack = s.stack := rfl
@[simp] theorem beginStep_mem : (s.beginStep).mem = s.mem := rfl
@[simp] theorem beginStep_fb : (s.beginStep).fb = s.fb := rfl
@[simp] theorem beginStep_dirty : (s.beginStep).dirty = s.dirty := rfl
@[simp] theorem beginStep_dt : (s.beginStep).dt = s.dt := rfl
@[simp] theorem beginStep_st : (s.beginStep).st = s.st := rfl
@[simp] theorem beginStep_wait : (s.beginStep).wait = s.wait := rfl
@[simp] theorem beginStep_waitX : (s.beginStep).waitX = s.waitX := rfl
@[simp] theorem beginStep_prevKeys : (s.beginStep).prevKeys = s.prevKeys := rfl
@[simp] theorem beginStep_halted : (s.beginStep).halted = s.halted := rfl
@[simp] theorem beginStep_fault : (s.beginStep).fault = s.fault := rfl
@[simp] theorem beginStep_report : (s.beginStep).report = none := rfl
@[simp] theorem beginStep_inputs : (s.beginStep).inputs = s.inputs := rfl
@[simp] theorem beginStep_stepNo : (s.beginStep).stepNo = s.stepNo := rfl
@[simp] theorem beginStep_V (r : Reg) : (s.beginStep).V r = s.V r := rfl
@[simp] theorem beginStep_readByte (a : Word) : (s.beginStep).readByte a = s.readByte a := rfl
@[simp] theorem beginStep_input : (s.beginStep).input = s.input := rfl
@[simp] theorem beginStep_sp : (s.beginStep).sp = s.sp := rfl
@[simp] theorem beginStep_fetchWord : (s.beginStep).fetchWord = s.fetchWord := rfl

/-! ### `nextInput` -/

@[simp] theorem nextInput_v : (s.nextInput).v = s.v := rfl
@[simp] theorem nextInput_i : (s.nextInput).i = s.i := rfl
@[simp] theorem nextInput_pc : (s.nextInput).pc = s.pc := rfl
@[simp] theorem nextInput_stack : (s.nextInput).stack = s.stack := rfl
@[simp] theorem nextInput_mem : (s.nextInput).mem = s.mem := rfl
@[simp] theorem nextInput_fb : (s.nextInput).fb = s.fb := rfl
@[simp] theorem nextInput_dirty : (s.nextInput).dirty = s.dirty := rfl
@[simp] theorem nextInput_dt : (s.nextInput).dt = s.dt := rfl
@[simp] theorem nextInput_st : (s.nextInput).st = s.st := rfl
@[simp] theorem nextInput_wait : (s.nextInput).wait = s.wait := rfl
@[simp] theorem nextInput_waitX : (s.nextInput).waitX = s.waitX := rfl
@[simp] theorem nextInput_prevKeys : (s.nextInput).prevKeys = s.prevKeys := rfl
@[simp] theorem nextInput_halted : (s.nextInput).halted = s.halted := rfl
@[simp] theorem nextInput_fault : (s.nextInput).fault = s.fault := rfl
@[simp] theorem nextInput_report : (s.nextInput).report = s.report := rfl
@[simp] theorem nextInput_inputs : (s.nextInput).inputs = s.inputs.tail := rfl
@[simp] theorem nextInput_stepNo : (s.nextInput).stepNo = s.stepNo + 1 := rfl
@[simp] theorem nextInput_V (r : Reg) : (s.nextInput).V r = s.V r := rfl
@[simp] theorem nextInput_readByte (a : Word) : (s.nextInput).readByte a = s.readByte a := rfl
@[simp] theorem nextInput_sp : (s.nextInput).sp = s.sp := rfl
@[simp] theorem nextInput_fetchWord : (s.nextInput).fetchWord = s.fetchWord := rfl

/-! ### `pollKeys` -/

@[simp] theorem pollKeys_i : (s.pollKeys).i = s.i := by
  unfold pollKeys; split <;> rfl
@[simp] theorem pollKeys_stack : (s.pollKeys).stack = s.stack := by
  unfold pollKeys; split <;> rfl
@[simp] theorem pollKeys_mem : (s.pollKeys).mem = s.mem := by
  unfold pollKeys; split <;> rfl
@[simp] theorem pollKeys_fb : (s.pollKeys).fb = s.fb := by
  unfold pollKeys; split <;> rfl
@[simp] theorem pollKeys_dirty : (s.pollKeys).dirty = s.dirty := by
  unfold pollKeys; split <;> rfl
@[simp] theorem pollKeys_dt : (s.pollKeys).dt = s.dt := by
  unfold pollKeys; split <;> rfl
@[simp] theorem pollKeys_st : (s.pollKeys).st = s.st := by
  unfold pollKeys; split <;> rfl
@[simp] theorem pollKeys_waitX : (s.pollKeys).waitX = s.waitX := by
  unfold pollKeys; split <;> rfl
@[simp] theorem pollKeys_halted : (s.pollKeys).halted = s.halted := by
  unfold pollKeys; split <;> rfl
@[simp] theorem pollKeys_fault : (s.pollKeys).fault = s.fault := by
  unfold pollKeys; split <;> rfl
@[simp] theorem pollKeys_report : (s.pollKeys).report = s.report := by
  unfold pollKeys; split <;> rfl
@[simp] theorem pollKeys_inputs : (s.pollKeys).inputs = s.inputs := by
  unfold pollKeys; split <;> rfl
@[simp] theorem pollKeys_stepNo : (s.pollKeys).stepNo = s.stepNo := by
  unfold pollKeys; split <;> rfl
@[simp] theorem pollKeys_readByte (a : Word) : (s.pollKeys).readByte a = s.readByte a := by
  unfold pollKeys; split <;> rfl
@[simp] theorem pollKeys_input : (s.pollKeys).input = s.input := by
  unfold pollKeys; split <;> rfl
@[simp] theorem pollKeys_sp : (s.pollKeys).sp = s.sp := by
  unfold pollKeys; split <;> rfl

/-! ### `finishStep` -/

@[simp] theorem finishStep_v : (s.finishStep).v = s.v := by
  unfold finishStep; split <;> rfl
@[simp] theorem finishStep_i : (s.finishStep).i = s.i := by
  unfold finishStep; split <;> rfl
@[simp] theorem finishStep_pc : (s.finishStep).pc = s.pc := by
  unfold finishStep; split <;> rfl
@[simp] theorem finishStep_stack : (s.finishStep).stack = s.stack := by
  unfold finishStep; split <;> rfl
@[simp] theorem finishStep_mem : (s.finishStep).mem = s.mem := by
  unfold finishStep; split <;> rfl
@[simp] theorem finishStep_fb : (s.finishStep).fb = s.fb := by
  unfold finishStep; split <;> rfl
@[simp] theorem finishStep_dirty : (s.finishStep).dirty = s.dirty := by
  unfold finishStep; split <;> rfl
@[simp] theorem finishStep_wait : (s.finishStep).wait = s.wait := by
  unfold finishStep; split <;> rfl
@[simp] theorem finishStep_waitX : (s.finishStep).waitX = s.waitX := by
  unfold finishStep; split <;> rfl
@[simp] theorem finishStep_prevKeys : (s.finishStep).prevKeys = s.prevKeys := by
  unfold finishStep; split <;> rfl
@[simp] theorem finishStep_halted : (s.finishStep).halted = s.halted := by
  unfold finishStep; split <;> rfl
@[simp] theorem finishStep_fault : (s.finishStep).fault = s.fault := by
  unfold finishStep; split <;> rfl
@[simp] theorem finishStep_report : (s.finishStep).report = s.report := by
  unfold finishStep; split <;> rfl
@[simp] theorem finishStep_inputs : (s.finishStep).inputs = s.inputs.tail := by
  unfold finishStep; split <;> rfl
@[simp] theorem finishStep_stepNo : (s.finishStep).stepNo = s.stepNo + 1 := by
  unfold finishStep; split <;> rfl
@[simp] theorem finishStep_V (r : Reg) : (s.finishStep).V r = s.V r := by
  unfold finishStep; split <;> rfl
@[simp] theorem finishStep_readByte (a : Word) : (s.finishStep).readByte a = s.readByte a := by
  unfold finishStep; split <;> rfl
@[simp] theorem finishStep_sp : (s.finishStep).sp = s.sp := by
  unfold finishStep; split <;> rfl
@[simp] theorem finishStep_fetchWord : (s.finishStep).fetchWord = s.fetchWord := by
  unfold finishStep; split <;> rfl

end State

end Sys2Proof.Machine
end

