-- ==== Sys2Proof/Laws/Memory.lean ====
section
/-! SUPPORT. Memory: a read after a write, and the canonical form kept by every write
(spec/20_memory.md R61, R62). -/

namespace Sys2Proof.Machine

namespace Memory

@[simp] theorem read_nil (a : Nat) : read [] a = resetByte a := rfl

theorem read_cons (k : Nat) (b : Byte) (m : Memory) (a : Nat) :
    read ((k, b) :: m) a = if a = k then b else read m a := rfl

theorem unlist_cons (k : Nat) (b : Byte) (m : Memory) (a : Nat) :
    unlist ((k, b) :: m) a = if k = a then unlist m a else (k, b) :: unlist m a := by
  by_cases h : k = a <;> simp [unlist, h]

theorem read_unlist (m : Memory) (a c : Nat) :
    (m.unlist a).read c = if c = a then resetByte a else m.read c := by
  induction m with
  | nil => by_cases h : c = a <;> simp [unlist, h]
  | cons hd tl ih =>
    obtain ⟨k, b⟩ := hd
    rw [unlist_cons]
    by_cases hk : k = a
    · subst hk; rw [if_pos rfl, ih, read_cons]; split <;> rfl
    · rw [if_neg hk, read_cons, read_cons, ih]
      by_cases hc : c = k
      · subst hc; simp [hk]
      · simp [hc]

theorem mem_unlist {m : Memory} {a : Nat} {c : Host.Cell} :
    c ∈ m.unlist a ↔ c ∈ m ∧ c.1 ≠ a := by simp [unlist]

theorem read_enlist (m : Memory) (a : Nat) (b : Byte) (h : ∀ c ∈ m, c.1 ≠ a) (c : Nat) :
    (m.enlist a b).read c = if c = a then b else m.read c := by
  induction m with
  | nil => simp [enlist, read_cons]
  | cons hd tl ih =>
    obtain ⟨k, d⟩ := hd
    have hk : k ≠ a := h (k, d) (by simp)
    have ih := ih fun c hc => h c (by simp [hc])
    unfold enlist
    split
    · rfl
    · rw [read_cons, read_cons, ih]
      by_cases hc : c = k
      · subst hc; simp [hk]
      · simp [hc]

/-- A read after a write gives the byte written at that address and the old byte elsewhere (R62). -/
theorem read_write (m : Memory) (a : Nat) (b : Byte) (c : Nat) :
    (m.write a b).read c = if c = a then b else m.read c := by
  unfold write
  split
  · rename_i h; rw [read_unlist, ← h]
  · rw [read_enlist _ _ _ (fun c hc => (mem_unlist.1 hc).2), read_unlist]
    split <;> rfl

theorem mem_enlist {m : Memory} {a : Nat} {b : Byte} {c : Host.Cell} :
    c ∈ m.enlist a b ↔ c = (a, b) ∨ c ∈ m := by
  induction m with
  | nil => simp [enlist]
  | cons hd tl ih =>
    obtain ⟨k, d⟩ := hd
    unfold enlist
    split
    · simp
    · simp only [List.mem_cons, ih]; tauto

theorem pairwise_enlist {m : Memory} {a : Nat} {b : Byte}
    (hp : m.Pairwise fun c d => c.1 < d.1) (h : ∀ c ∈ m, c.1 ≠ a) :
    (m.enlist a b).Pairwise fun c d => c.1 < d.1 := by
  induction m with
  | nil => simp [enlist]
  | cons hd tl ih =>
    obtain ⟨k, d⟩ := hd
    rw [List.pairwise_cons] at hp
    have hk : k ≠ a := h (k, d) (by simp)
    unfold enlist
    split
    · rename_i hlt
      refine List.pairwise_cons.2 ⟨?_, List.pairwise_cons.2 hp⟩
      intro c hc
      rcases List.mem_cons.1 hc with rfl | hc
      · exact hlt
      · exact lt_trans hlt (hp.1 c hc)
    · rename_i hlt
      refine List.pairwise_cons.2 ⟨?_, ih hp.2 fun c hc => h c (by simp [hc])⟩
      intro c hc
      rcases mem_enlist.1 hc with rfl | hc
      · change k < a; omega
      · exact hp.1 c hc

theorem wf_nil : wf [] := ⟨List.Pairwise.nil, by simp⟩

theorem wf_unlist {m : Memory} (h : m.wf) (a : Nat) : (m.unlist a).wf :=
  ⟨h.1.sublist List.filter_sublist, fun c hc => h.2 c (mem_unlist.1 hc).1⟩

/-- Every write to an address of the space keeps the canonical form. -/
theorem wf_write {m : Memory} (h : m.wf) {a : Nat} (ha : a < Config.memSize) (b : Byte) :
    (m.write a b).wf := by
  unfold write
  split
  · exact wf_unlist h a
  · rename_i hb
    refine ⟨pairwise_enlist (wf_unlist h a).1 fun c hc => (mem_unlist.1 hc).2, fun c hc => ?_⟩
    rcases mem_enlist.1 hc with rfl | hc
    · exact ⟨ha, hb⟩
    · exact (wf_unlist h a).2 c hc

/-- Two memories in canonical form that read alike are equal. -/
theorem eq_of_read_eq {m n : Memory} (hm : m.wf) (hn : n.wf) (h : ∀ a, m.read a = n.read a) : m = n := by
  have key : ∀ {m : Memory}, m.wf → ∀ a b, ((a, b) ∈ m ↔ m.read a = b ∧ b ≠ resetByte a) := by
    intro m hm a b
    induction m with
    | nil => simpa using fun h => h.symm
    | cons hd tl ih =>
      obtain ⟨k, d⟩ := hd
      have htl : wf tl := ⟨(List.pairwise_cons.1 hm.1).2, fun c hc => hm.2 c (by simp [hc])⟩
      have hlt := (List.pairwise_cons.1 hm.1).1
      have hd := (hm.2 (k, d) (by simp)).2
      rw [read_cons]
      by_cases hk : a = k
      · subst hk
        simp only [List.mem_cons, Prod.mk.injEq, true_and, if_true]
        refine ⟨?_, fun h => .inl h.1.symm⟩
        rintro (rfl | h')
        · exact ⟨rfl, hd⟩
        · exact absurd (hlt _ h') (lt_irrefl _)
      · simp [hk, ih htl]
  have hmem : ∀ c, c ∈ m ↔ c ∈ n := fun ⟨a, b⟩ => by rw [key hm, key hn, h]
  have nd : ∀ {m : Memory}, m.wf → m.Nodup := fun hm =>
    hm.1.imp fun {a b} (h : a.1 < b.1) => fun e => absurd (congrArg Prod.fst e) (Nat.ne_of_lt h)
  have hperm : m.Perm n := (List.perm_ext_iff_of_nodup (nd hm) (nd hn)).2 hmem
  exact hperm.eq_of_pairwise (fun a b _ _ h1 h2 => absurd h1 (Nat.lt_asymm h2)) hm.1 hn.1

end Memory

/-! ### Addresses -/

theorem trunc12_toNat (a : Word) : (trunc12 a).toNat = a.toNat % 4096 := by
  show (a &&& 0xFFF#16).toNat = _
  rw [BitVec.toNat_and]
  exact Nat.and_two_pow_sub_one_eq_mod a.toNat 12

theorem trunc12_le (a : Word) : (trunc12 a).toNat ≤ 0xFFF := by
  rw [trunc12_toNat]; omega

theorem ea_eq (a : Word) : ea a = a.toNat % 4096 := trunc12_toNat a

theorem ea_lt (a : Word) : ea a < Config.memSize := by
  rw [ea_eq]; exact Nat.mod_lt _ (by decide)

theorem ea_offsetAddr (a : Word) (k : Nat) : ea (offsetAddr a k) = (a.toNat + k) % 4096 := by
  rw [ea_eq, offsetAddr, BitVec.toNat_add, BitVec.toNat_ofNat]; omega

theorem ea_succ (a : Word) : ea (a + 1) = (a.toNat + 1) % 4096 := ea_offsetAddr a 1

theorem offsetAddr_succ (a : Word) (k : Nat) : offsetAddr (a + 1) k = offsetAddr a (k + 1) := by
  apply BitVec.eq_of_toNat_eq
  have h1 : (1 : Word).toNat = 1 := rfl
  simp only [offsetAddr, BitVec.toNat_add, BitVec.toNat_ofNat, h1]
  omega

/-- The program counter after an addition, as a number (R23). -/
theorem trunc12_add_toNat (a : Word) (k : Nat) :
    (trunc12 (a + BitVec.ofNat 16 k)).toNat = (a.toNat + k) % 4096 := by
  rw [trunc12_toNat, BitVec.toNat_add, BitVec.toNat_ofNat]; omega

@[simp] theorem trunc12_add_two (a : Word) : (trunc12 (a + 2#16)).toNat = (a.toNat + 2) % 4096 :=
  trunc12_add_toNat a 2

@[simp] theorem trunc12_add_four (a : Word) : (trunc12 (a + 4#16)).toNat = (a.toNat + 4) % 4096 :=
  trunc12_add_toNat a 4

/-- Where a skip leaves the program counter (R101). -/
theorem skipIf_pc_toNat (s : State) (c : Bool) :
    (s.skipIf c).pc.toNat = (s.pc.toNat + if c = true then 4 else 2) % 4096 := by
  cases c <;> simp [State.skipIf_pc]

/-! ### Byte and multi-byte accesses of the machine -/

namespace State

variable (s : State)

/-- A read after a byte write, through the mask of R61 (R62). -/
theorem readByte_writeByte (a : Word) (b : Byte) (c : Word) :
    (s.writeByte a b).readByte c = if ea c = ea a then b else s.readByte c :=
  Memory.read_write s.mem (ea a) b (ea c)

/-- A byte outside the bytes of a multi-byte write is unchanged (R62). -/
theorem readByte_writeBytes_of_ne (a : Word) (bs : List Byte) (c : Word)
    (h : ∀ k < bs.length, ea c ≠ ea (offsetAddr a k)) : (s.writeBytes a bs).readByte c = s.readByte c := by
  induction bs generalizing s a with
  | nil => rfl
  | cons b bs ih =>
    rw [writeBytes, ih, readByte_writeByte, if_neg]
    · simpa [offsetAddr] using h 0 (by simp)
    · intro k hk
      rw [offsetAddr_succ]
      exact h (k + 1) (by simpa using hk)

/-- The `k`-th byte of a multi-byte write no longer than the space is where the write put it (R62). -/
theorem readByte_writeBytes (a : Word) (bs : List Byte) (hlen : bs.length ≤ Config.memSize) (k : Nat)
    (hk : k < bs.length) : (s.writeBytes a bs).readByte (offsetAddr a k) = bs[k] := by
  have hsize : Config.memSize = 4096 := rfl
  induction bs generalizing s a k with
  | nil => simp at hk
  | cons b bs ih =>
    simp only [List.length_cons] at hlen hk
    rw [writeBytes]
    cases k with
    | zero =>
      rw [readByte_writeBytes_of_ne, readByte_writeByte, if_pos]
      · rfl
      · simp [offsetAddr]
      · intro j hj
        rw [offsetAddr_succ, ea_offsetAddr, ea_offsetAddr]
        omega
    | succ k =>
      rw [← offsetAddr_succ, ih (s.writeByte a b) (a + 1) (by omega) k (by omega)]
      rfl

/-- Reading memory at a number reduced modulo 4096 is reading the byte at the offset address (R61). -/
theorem read_mod_eq (a : Word) (k : Nat) :
    s.mem.read ((a.toNat + k) % 4096) = s.readByte (offsetAddr a k) := by
  rw [readByte, ea_offsetAddr]

/-- An address outside the bytes of a multi-byte write reads as before, as a number (R62). -/
theorem mem_read_writeBytes_of_ne (a : Word) (bs : List Byte) (c : Nat)
    (h : ∀ k < bs.length, c ≠ (a.toNat + k) % 4096) : (s.writeBytes a bs).mem.read c = s.mem.read c := by
  induction bs generalizing s a with
  | nil => rfl
  | cons b bs ih =>
    rw [writeBytes, ih]
    · exact (Memory.read_write s.mem (ea a) b c).trans (if_neg (by simpa [ea_eq] using h 0 (by simp)))
    · intro k hk
      have := h (k + 1) (by simpa using hk)
      have one : (1 : Word).toNat = 1 := rfl
      rw [BitVec.toNat_add, one]; omega

/-- Every multi-byte write keeps the canonical form of the memory. -/
theorem wf_writeBytes (h : s.mem.wf) (a : Word) (bs : List Byte) : (s.writeBytes a bs).mem.wf := by
  induction bs generalizing s a with
  | nil => exact h
  | cons b bs ih => exact ih (s.writeByte a b) (Memory.wf_write h (ea_lt a) b) (a + 1)

theorem fetchWord_congr {s t : State} (hpc : t.pc = s.pc) (hmem : t.mem = s.mem) :
    t.fetchWord = s.fetchWord := by
  simp [fetchWord, readByte, hpc, hmem]

end State

end Sys2Proof.Machine
end

