-- ==== Sys2Proof/Laws/Boot.lean ====
section
/-! SUPPORT. The two outcomes of a launch (spec/70_reset_and_hazards.md R261, R262) and the input a schedule
gives a step (spec/10_state.md R38). -/

namespace Sys2Proof.Machine

/-- The machine that launches: the timers set, then font and image written (R261). -/
theorem launch_of_le (c : LaunchConfig) {image : List Byte} (h : image.length ≤ Config.maxImage) :
    launch c image = .ok ((((State.reset.setDelay c.initialDelay).setSound c.initialSound).writeBytes
      (BitVec.ofNat 16 Config.fontBase) c.font.toList).writeBytes
      (BitVec.ofNat 16 Config.progBase) image) := if_pos h

/-- An image that is too long starts no machine (R230, R262). -/
theorem launch_of_gt (c : LaunchConfig) {image : List Byte} (h : Config.maxImage < image.length) :
    launch c image = .error (.romTooLarge image.length) := if_neg (Nat.not_le.2 h)

/-- The inputs of a step are the first that the schedule lists (R38). -/
theorem input_of_cons {s : State} {first : StepInput} {rest : List StepInput}
    (h : s.inputs = first :: rest) : s.input = first := by simp [State.input, h]

end Sys2Proof.Machine
end

