-- ==== Sys2Proof/Laws/Registers.lean ====
section
/-! SUPPORT. What a read of a general register gives after each write to the register file
(spec/10_state.md R20, spec/41_alu.md R141, spec/42_index_memory.md R165, R166). -/

namespace Sys2Proof.Machine

namespace State

variable (s : State)

theorem V_setV (x : Reg) (b : Byte) (y : Reg) : (s.setV x b).V y = if y = x then b else s.V y := by
  have h : (x.val = y.val) = (y = x) := by rw [Fin.ext_iff]; exact propext eq_comm
  simp only [V, setV, Vector.getElem_set, h]

@[simp] theorem V_setV_self (x : Reg) (b : Byte) : (s.setV x b).V x = b := by simp [V_setV]

/-- The flag stands last: it is what remains when `x` is `VF` (R141). -/
theorem V_setVThenFlag (x : Reg) (b flag : Byte) (y : Reg) :
    (s.setVThenFlag x b flag).V y = if y = VF then flag else if y = x then b else s.V y := by
  rw [setVThenFlag, setFlag, V_setV, V_setV]

theorem V_setFlag (flag : Byte) (y : Reg) : (s.setFlag flag).V y = if y = VF then flag else s.V y :=
  V_setV s VF flag y

theorem V_loadRegs (x : Reg) (a : Word) (y : Reg) :
    (s.loadRegs x a).V y = if y ≤ x then s.readByte (offsetAddr a y.val) else s.V y := by
  simp only [V, loadRegs, Vector.getElem_mapFinIdx, Fin.le_def]

@[simp] theorem length_firstRegs (x : Reg) : (s.firstRegs x).length = x.val + 1 := by
  simp [firstRegs]

theorem getElem_firstRegs (x : Reg) (k : Nat) (hk : k < (s.firstRegs x).length) :
    (s.firstRegs x)[k] = s.V ⟨k, by have := x.isLt; simp at hk; omega⟩ := by
  simp [firstRegs, V]

/-- Register files that read alike are equal. -/
theorem v_ext {s t : State} (h : ∀ x, s.V x = t.V x) : s.v = t.v :=
  Vector.ext fun k hk => h ⟨k, hk⟩

end State

/-! ### Operand forms -/

theorem keyIndex_eq_none {b : Byte} : keyIndex b = none ↔ 15 < b.toNat := by
  unfold keyIndex; split <;> simp <;> omega

theorem keyIndex_eq_some {b : Byte} {k : Fin 16} : keyIndex b = some k ↔ b.toNat = k.val := by
  unfold keyIndex
  split
  · rename_i h
    simp only [Option.some.injEq]
    exact ⟨fun e => e ▸ rfl, fun e => Fin.ext e⟩
  · rename_i h
    simp only [reduceCtorEq, false_iff]
    have := k.isLt
    omega

@[simp] theorem immAddr_toNat (nnn : Addr12) : (immAddr nnn).toNat = nnn.toNat := by
  have := nnn.isLt
  simp only [immAddr, BitVec.toNat_setWidth]
  omega

theorem immAddr_le (nnn : Addr12) : (immAddr nnn).toNat ≤ 0xFFF := by
  have := nnn.isLt
  rw [immAddr_toNat]; omega

@[simp] theorem trunc8_toNat (n : Nat) : (trunc8 n).toNat = n % 256 := BitVec.toNat_ofNat n 8

theorem glyphAddr_toNat (b : Byte) : (glyphAddr b).toNat = 5 * b.toNat := by
  have := b.isLt
  simp only [glyphAddr, trunc12_toNat, BitVec.toNat_ofNat, Config.fontBase, Config.glyphBytes]
  omega

/-! ### Flags -/

/-- A flag is `0x01` or `0x00` (R21). -/
theorem flagByte_eq (b : Bool) : flagByte b = 0x01 ∨ flagByte b = 0x00 := by cases b <;> simp [flagByte]

theorem flagByte_toNat (b : Bool) : (flagByte b).toNat = if b = true then 1 else 0 := by cases b <;> rfl

end Sys2Proof.Machine
end

