-- ==== Sys2Proof/Laws/Display.lean ====
section
/-! SUPPORT. The blitter, pixel by pixel: which pixels a sprite covers, what a draw does to each pixel and
when it reports a collision (spec/43_display.md R181 to R184, R188). -/

namespace Sys2Proof.Machine

theorem pixel_flip (fb : Framebuffer) (x : Fin 64) (y : Fin 32) (px : Fin 64) (py : Fin 32) :
    (fb.flip x y).pixel px py = if px = x ∧ py = y then !fb.pixel px py else fb.pixel px py := by
  simp only [Framebuffer.pixel, Framebuffer.flip, Vector.getElem_set]
  by_cases hy : y.val = py.val
  · have hy' : y = py := Fin.ext hy
    subst hy'
    by_cases hx : x.val = px.val
    · have hx' : x = px := Fin.ext hx
      subst hx'; simp
    · have : px ≠ x := fun e => hx (e ▸ rfl)
      simp [hx, this]
  · have : py ≠ y := fun e => hy (e ▸ rfl)
    simp [hy, this]

theorem pixel_blank (x : Fin 64) (y : Fin 32) : Framebuffer.blank.pixel x y = false := by
  simp [Framebuffer.pixel, Framebuffer.blank]

/-- Displays that show the same pixels are equal. -/
theorem Framebuffer.ext_pixel {fb gb : Framebuffer} (h : ∀ x y, fb.pixel x y = gb.pixel x y) : fb = gb :=
  Vector.ext fun y hy => Vector.ext fun x hx => h ⟨x, hx⟩ ⟨y, hy⟩

/-- What a stage of a draw has done: the pixels of `lit` are inverted, and the flag is raised when one of
them was lit (R181, R183). -/
structure Canvas.Draws (cv : Canvas) (lit : Fin 64 → Fin 32 → Bool) (out : Canvas) : Prop where
  pixel : ∀ x y, out.fb.pixel x y = (cv.fb.pixel x y ^^ lit x y)
  hit   : out.hit = true ↔ cv.hit = true ∨ ∃ x y, lit x y = true ∧ cv.fb.pixel x y = true

theorem Canvas.Draws.refl (cv : Canvas) : cv.Draws (fun _ _ => false) cv := ⟨by simp, by simp⟩

theorem Canvas.Draws.congr {cv out : Canvas} {l m : Fin 64 → Fin 32 → Bool} (h : cv.Draws l out)
    (e : ∀ x y, l x y = m x y) : cv.Draws m out := by
  have : l = m := funext fun x => funext fun y => e x y
  exact this ▸ h

/-- Two stages that cover disjoint pixels make one. -/
theorem Canvas.Draws.trans {a b c : Canvas} {l m : Fin 64 → Fin 32 → Bool} (h1 : a.Draws l b)
    (h2 : b.Draws m c) (disj : ∀ x y, l x y = true → m x y = false) :
    a.Draws (fun x y => l x y || m x y) c := by
  refine ⟨fun x y => ?_, ?_⟩
  · have := disj x y
    rw [h2.pixel, h1.pixel]
    revert this
    cases l x y <;> cases m x y <;> simp
  · rw [h2.hit, h1.hit, or_assoc]
    refine or_congr_right ⟨?_, ?_⟩
    · rintro (⟨x, y, hl, hp⟩ | ⟨x, y, hm, hp⟩)
      · exact ⟨x, y, by simp [hl], hp⟩
      · refine ⟨x, y, by simp [hm], ?_⟩
        rw [h1.pixel] at hp
        have := disj x y
        revert this hp
        cases l x y <;> simp [hm]
    · rintro ⟨x, y, h, hp⟩
      by_cases hl : l x y = true
      · exact .inl ⟨x, y, hl, hp⟩
      · refine .inr ⟨x, y, by simpa [hl] using h, ?_⟩
        rw [h1.pixel, hp]; simp [hl]

theorem Canvas.plot_draws (cv : Canvas) (x : Fin 64) (y : Fin 32) :
    cv.Draws (fun px py => decide (px = x ∧ py = y)) (cv.plot x y) := by
  refine ⟨fun px py => ?_, ?_⟩
  · show (cv.fb.flip x y).pixel px py = _
    rw [pixel_flip]
    by_cases h : px = x ∧ py = y <;> simp [h]
  · simp only [Canvas.plot, Bool.or_eq_true, decide_eq_true_eq]
    refine or_congr_right ⟨fun h => ⟨x, y, ⟨rfl, rfl⟩, h⟩, ?_⟩
    rintro ⟨_, _, ⟨rfl, rfl⟩, h⟩; exact h

theorem Canvas.drawBit_draws (row : Byte) (x0 : Nat) (y : Fin 32) (cv : Canvas) (c : Nat) :
    cv.Draws (fun px py => decide (px.val = x0 + c ∧ py = y) && row.getLsbD (7 - c))
      (cv.drawBit row x0 y c) := by
  unfold Canvas.drawBit
  split
  · split
    · rename_i h hb
      exact (cv.plot_draws ⟨x0 + c, h⟩ y).congr fun px py => by simp [hb, Fin.ext_iff]
    · rename_i h hb
      exact (Canvas.Draws.refl cv).congr fun px py => by simp [hb]
  · rename_i h
    refine (Canvas.Draws.refl cv).congr fun px py => ?_
    have : px.val ≠ x0 + c := by have := px.isLt; omega
    simp [this]

theorem Canvas.drawBits_draws (row : Byte) (x0 : Nat) (y : Fin 32) (cs : List Nat) (hcs : cs.Nodup)
    (cv : Canvas) :
    cv.Draws (fun px py => cs.any fun c => decide (px.val = x0 + c ∧ py = y) && row.getLsbD (7 - c))
      (cs.foldl (Canvas.drawBit row x0 y) cv) := by
  induction cs generalizing cv with
  | nil => exact (Canvas.Draws.refl cv).congr fun _ _ => rfl
  | cons c cs ih =>
    rw [List.nodup_cons] at hcs
    refine ((cv.drawBit_draws row x0 y c).trans (ih hcs.2 _) fun px py h => ?_).congr fun px py => ?_
    · simp only [Bool.and_eq_true, decide_eq_true_eq] at h
      simp only [List.any_eq_false, Bool.and_eq_true, decide_eq_true_eq, not_and]
      intro d hd hx
      have : c = d := by omega
      exact absurd hd (this ▸ hcs.1)
    · simp

/-- A sprite row of 8 columns at `x0` covers column `px`, bit 7 leftmost (R182, R184). -/
def rowBit (row : Byte) (x0 px : Nat) : Bool :=
  decide (x0 ≤ px) && decide (px < x0 + 8) && row.getLsbD (7 - (px - x0))

theorem Canvas.drawRow_draws (cv : Canvas) (row : Byte) (x0 : Nat) (y : Fin 32) :
    cv.Draws (fun px py => decide (py = y) && rowBit row x0 px.val) (cv.drawRow row x0 y) := by
  refine (Canvas.drawBits_draws row x0 y (List.range 8) List.nodup_range cv).congr fun px py => ?_
  rw [Bool.eq_iff_iff]
  simp only [List.any_eq_true, List.mem_range, Bool.and_eq_true, decide_eq_true_eq, rowBit]
  constructor
  · rintro ⟨c, hc, ⟨hx, hy⟩, hb⟩
    have : px.val - x0 = c := by omega
    exact ⟨hy, ⟨by omega, by omega⟩, this ▸ hb⟩
  · rintro ⟨hy, ⟨h1, h2⟩, hb⟩
    exact ⟨px.val - x0, by omega, ⟨by omega, hy⟩, hb⟩

/-- The pixels of the sprite rows from buffer row `y0` on, at column `x0` (R181, R184). -/
def spriteBit (rows : List Byte) (x0 y0 px py : Nat) : Bool :=
  decide (y0 ≤ py) && match rows[py - y0]? with
    | some row => rowBit row x0 px
    | none => false

theorem spriteBit_cons (row : Byte) (rows : List Byte) (x0 y0 px py : Nat) :
    spriteBit (row :: rows) x0 y0 px py =
      ((decide (py = y0) && rowBit row x0 px) || spriteBit rows x0 (y0 + 1) px py) := by
  unfold spriteBit
  by_cases h : py = y0
  · subst h; simp
  · by_cases hlt : y0 ≤ py
    · have h1 : py - y0 = (py - (y0 + 1)) + 1 := by omega
      have h2 : y0 + 1 ≤ py := by omega
      simp [h, hlt, h1, h2]
    · have h2 : ¬ y0 + 1 ≤ py := by omega
      simp [h, hlt, h2]

theorem Canvas.drawRows_draws (x0 : Nat) (rows : List Byte) (y0 : Nat) (cv : Canvas) :
    cv.Draws (fun px py => spriteBit rows x0 y0 px.val py.val) (Canvas.drawRows x0 rows y0 cv) := by
  induction rows generalizing y0 cv with
  | nil => exact (Canvas.Draws.refl cv).congr fun px py => by simp [spriteBit]
  | cons row rows ih =>
    unfold Canvas.drawRows
    have first : cv.Draws (fun px py => decide (py.val = y0) && rowBit row x0 px.val)
        (if h : y0 < 32 then cv.drawRow row x0 ⟨y0, h⟩ else cv) := by
      split
      · rename_i h
        exact (cv.drawRow_draws row x0 ⟨y0, h⟩).congr fun px py => by simp [Fin.ext_iff]
      · rename_i h
        refine (Canvas.Draws.refl cv).congr fun px py => ?_
        have : py.val ≠ y0 := by have := py.isLt; omega
        simp [this]
    refine (first.trans (ih (y0 + 1) _) fun px py h => ?_).congr fun px py => (spriteBit_cons ..).symm
    simp only [Bool.and_eq_true, decide_eq_true_eq] at h
    unfold spriteBit
    have : ¬ y0 + 1 ≤ py.val := by omega
    simp [this]

/-- The pixel `(px, py)` is one the sprite inverts: the origin wraps, the body is clipped (R181, R184). -/
def spriteCovers (x y : Byte) (rows : List Byte) (px : Fin 64) (py : Fin 32) : Bool :=
  spriteBit rows (x.toNat % 64) (y.toNat % 32) px.val py.val

/-- The covered pixels by sprite row `r` and column `c`, bit `7 - c` of the row (R181, R182). -/
theorem spriteCovers_iff (x y : Byte) (rows : List Byte) (px : Fin 64) (py : Fin 32) :
    spriteCovers x y rows px py = true ↔
      ∃ r c row, rows[r]? = some row ∧ c < 8 ∧ px.val = x.toNat % 64 + c ∧ py.val = y.toNat % 32 + r ∧
        row.getLsbD (7 - c) = true := by
  unfold spriteCovers spriteBit rowBit
  constructor
  · intro h
    simp only [Bool.and_eq_true, decide_eq_true_eq] at h
    obtain ⟨hy, h⟩ := h
    split at h
    · rename_i row hrow
      simp only [Bool.and_eq_true, decide_eq_true_eq] at h
      exact ⟨_, px.val - x.toNat % 64, row, hrow, by omega, by omega, by omega, h.2⟩
    · cases h
  · rintro ⟨r, c, row, hrow, hc, hx, hy, hb⟩
    have e1 : py.val - y.toNat % 32 = r := by omega
    have e2 : px.val - x.toNat % 64 = c := by omega
    simp only [e1, e2, hrow, hb, Bool.and_true, Bool.and_eq_true, decide_eq_true_eq]
    omega

/-- Everything a sprite draw does: it inverts the pixels it covers and reports whether one of them was lit
(R181, R183). -/
theorem drawSprite_draws (fb : Framebuffer) (x y : Byte) (rows : List Byte) :
    Canvas.Draws { fb := fb, hit := false } (spriteCovers x y rows) (fb.drawSprite x y rows) :=
  Canvas.drawRows_draws _ rows _ _

theorem pixel_drawSprite (fb : Framebuffer) (x y : Byte) (rows : List Byte) (px : Fin 64) (py : Fin 32) :
    (fb.drawSprite x y rows).fb.pixel px py = (fb.pixel px py ^^ spriteCovers x y rows px py) :=
  (drawSprite_draws fb x y rows).pixel px py

theorem hit_drawSprite (fb : Framebuffer) (x y : Byte) (rows : List Byte) :
    (fb.drawSprite x y rows).hit = true ↔
      ∃ px py, spriteCovers x y rows px py = true ∧ fb.pixel px py = true := by
  simpa using (drawSprite_draws fb x y rows).hit

end Sys2Proof.Machine
end

