-- ==== Sys2Proof/Laws/Encoding.lean ====
section
/-! SUPPORT. The fields of the encoding formats (spec/30_encoding.md R91, R92): which field reads back
which operand, and what the masks of R96 leave of a word. -/

namespace Sys2Proof

theorem toNat_append {m n : Nat} (a : BitVec m) (b : BitVec n) :
    (a ++ b).toNat = a.toNat * 2 ^ n + b.toNat := by
  rw [BitVec.toNat_append, ← Nat.shiftLeft_add_eq_or_of_lt b.isLt, Nat.shiftLeft_eq]

/-! ### Fields as numbers -/

theorem toNat_extractLsb' (w : Word) (lo width : Nat) :
    (w.extractLsb' lo width).toNat = w.toNat / 2 ^ lo % 2 ^ width := by
  rw [BitVec.extractLsb'_toNat, Nat.shiftRight_eq_div_pow]

theorem fieldOp_toNat (w : Word) : (fieldOp w).toNat = w.toNat / 4096 % 16 := toNat_extractLsb' w 12 4
theorem fieldX_val (w : Word) : (fieldX w).val = w.toNat / 256 % 16 := toNat_extractLsb' w 8 4
theorem fieldY_val (w : Word) : (fieldY w).val = w.toNat / 16 % 16 := toNat_extractLsb' w 4 4
theorem fieldN_toNat (w : Word) : (fieldN w).toNat = w.toNat % 16 := by
  rw [fieldN, toNat_extractLsb' w 0 4, Nat.pow_zero, Nat.div_one]; rfl
theorem fieldNN_toNat (w : Word) : (fieldNN w).toNat = w.toNat % 256 := by
  rw [fieldNN, toNat_extractLsb' w 0 8, Nat.pow_zero, Nat.div_one]; rfl
theorem fieldNNN_toNat (w : Word) : (fieldNNN w).toNat = w.toNat % 4096 := by
  rw [fieldNNN, toNat_extractLsb' w 0 12, Nat.pow_zero, Nat.div_one]; rfl
theorem highByte_toNat (w : Word) : (highByte w).toNat = w.toNat / 256 % 256 := toNat_extractLsb' w 8 8
theorem lowByte_toNat (w : Word) : (lowByte w).toNat = w.toNat % 256 := fieldNN_toNat w

theorem wordOfBytes_toNat (b0 b1 : Byte) : (wordOfBytes b0 b1).toNat = b0.toNat * 256 + b1.toNat :=
  toNat_append b0 b1

/-- Storing a word high byte first and fetching it gives the word back (R63, R90). -/
theorem wordOfBytes_high_low (w : Word) : wordOfBytes (highByte w) (lowByte w) = w := by
  apply BitVec.eq_of_toNat_eq
  have := w.isLt
  rw [wordOfBytes_toNat, highByte_toNat, lowByte_toNat]
  omega

/-! ### Formats as numbers -/

section
variable (op : Nibble) (x y : Reg) (n : Nibble) (nn : Byte) (nnn : Addr12)

theorem formNNN_toNat : (formNNN op nnn).toNat = op.toNat * 4096 + nnn.toNat := toNat_append op nnn

theorem formXNN_toNat : (formXNN op x nn).toNat = op.toNat * 4096 + x.val * 256 + nn.toNat := by
  show (op ++ regBits x ++ nn).toNat = _
  rw [toNat_append, toNat_append]
  show (op.toNat * 16 + x.val) * 256 + nn.toNat = _
  omega

theorem formXYN_toNat :
    (formXYN op x y n).toNat = op.toNat * 4096 + x.val * 256 + y.val * 16 + n.toNat := by
  show (op ++ regBits x ++ regBits y ++ n).toNat = _
  rw [toNat_append, toNat_append, toNat_append]
  show ((op.toNat * 16 + x.val) * 16 + y.val) * 16 + n.toNat = _
  omega

/-! ### Which field reads back which operand -/

@[simp] theorem fieldOp_formNNN : fieldOp (formNNN op nnn) = op := by
  apply BitVec.eq_of_toNat_eq
  have := nnn.isLt; have := op.isLt
  rw [fieldOp_toNat, formNNN_toNat]; omega

@[simp] theorem fieldNNN_formNNN : fieldNNN (formNNN op nnn) = nnn := by
  apply BitVec.eq_of_toNat_eq
  have := nnn.isLt
  rw [fieldNNN_toNat, formNNN_toNat]; omega

@[simp] theorem fieldOp_formXNN : fieldOp (formXNN op x nn) = op := by
  apply BitVec.eq_of_toNat_eq
  have := nn.isLt; have := op.isLt; have := x.isLt
  rw [fieldOp_toNat, formXNN_toNat]; omega

@[simp] theorem fieldX_formXNN : fieldX (formXNN op x nn) = x := by
  apply Fin.ext
  have := nn.isLt; have := x.isLt
  rw [fieldX_val, formXNN_toNat]; omega

@[simp] theorem fieldNN_formXNN : fieldNN (formXNN op x nn) = nn := by
  apply BitVec.eq_of_toNat_eq
  have := nn.isLt
  rw [fieldNN_toNat, formXNN_toNat]; omega

@[simp] theorem fieldOp_formXYN : fieldOp (formXYN op x y n) = op := by
  apply BitVec.eq_of_toNat_eq
  have := n.isLt; have := op.isLt; have := x.isLt; have := y.isLt
  rw [fieldOp_toNat, formXYN_toNat]; omega

@[simp] theorem fieldX_formXYN : fieldX (formXYN op x y n) = x := by
  apply Fin.ext
  have := n.isLt; have := x.isLt; have := y.isLt
  rw [fieldX_val, formXYN_toNat]; omega

@[simp] theorem fieldY_formXYN : fieldY (formXYN op x y n) = y := by
  apply Fin.ext
  have := n.isLt; have := y.isLt
  rw [fieldY_val, formXYN_toNat]; omega

@[simp] theorem fieldN_formXYN : fieldN (formXYN op x y n) = n := by
  apply BitVec.eq_of_toNat_eq
  have := n.isLt
  rw [fieldN_toNat, formXYN_toNat]; omega

end

/-! ### What the masks of R96 keep -/

theorem and_mask_op (w : Word) : w &&& 0xF000 = (fieldOp w).setWidth 16 <<< 12 := by
  apply BitVec.eq_of_getLsbD_eq; intro i hi
  interval_cases i <;> simp [fieldOp]

theorem and_mask_op_n (w : Word) :
    w &&& 0xF00F = (fieldOp w).setWidth 16 <<< 12 ||| (fieldN w).setWidth 16 := by
  apply BitVec.eq_of_getLsbD_eq; intro i hi
  interval_cases i <;> simp [fieldOp, fieldN]

theorem and_mask_op_nn (w : Word) :
    w &&& 0xF0FF = (fieldOp w).setWidth 16 <<< 12 ||| (fieldNN w).setWidth 16 := by
  apply BitVec.eq_of_getLsbD_eq; intro i hi
  interval_cases i <;> simp [fieldOp, fieldNN]

end Sys2Proof
end

