-- ==== Sys2Proof/Laws/Frames.lean ====
section
/-! SUPPORT. The frame of Safety.lean: how to build one from what each field holds, and how two compose. -/

namespace Sys2Proof.Machine

namespace OnlyWrites

variable {regs : List Reg} {parts : List Part} {s t u : State}

/-- A frame from the fields: the memories are equal where memory is not listed. -/
theorem of_fields (hv : ∀ r, r ∉ regs → t.V r = s.V r)
    (hi : .index ∉ parts → t.i = s.i) (hs : .stack ∉ parts → t.stack = s.stack)
    (hm : .memory ∉ parts → t.mem = s.mem)
    (hf : .display ∉ parts → t.fb = s.fb ∧ t.dirty = s.dirty)
    (hd : .delay ∉ parts → t.dt = s.dt) (ht : .sound ∉ parts → t.st = s.st)
    (hw : .waiting ∉ parts → t.wait = s.wait ∧ t.waitX = s.waitX ∧ t.prevKeys = s.prevKeys)
    (hh : .halt ∉ parts → t.halted = s.halted ∧ t.fault = s.fault)
    (hr : .report ∉ parts → t.report = s.report)
    (hn : .inputs ∉ parts → t.inputs = s.inputs ∧ t.stepNo = s.stepNo) : OnlyWrites regs parts s t :=
  ⟨hv, hi, hs, fun h a => by simp [State.readByte, hm h], hf, hd, ht, hw, hh, hr, hn⟩

theorem refl (regs : List Reg) (parts : List Part) (s : State) : OnlyWrites regs parts s s :=
  of_fields (fun _ _ => rfl) (fun _ => rfl) (fun _ => rfl) (fun _ => rfl) (fun _ => ⟨rfl, rfl⟩)
    (fun _ => rfl) (fun _ => rfl) (fun _ => ⟨rfl, rfl, rfl⟩) (fun _ => ⟨rfl, rfl⟩) (fun _ => rfl)
    (fun _ => ⟨rfl, rfl⟩)

theorem trans (h : OnlyWrites regs parts s t) (k : OnlyWrites regs parts t u) :
    OnlyWrites regs parts s u where
  regs r hr := (k.regs r hr).trans (h.regs r hr)
  index hp := (k.index hp).trans (h.index hp)
  stack hp := (k.stack hp).trans (h.stack hp)
  memory hp a := (k.memory hp a).trans (h.memory hp a)
  display hp := ⟨(k.display hp).1.trans (h.display hp).1, (k.display hp).2.trans (h.display hp).2⟩
  delay hp := (k.delay hp).trans (h.delay hp)
  sound hp := (k.sound hp).trans (h.sound hp)
  waiting hp :=
    have a := k.waiting hp
    have b := h.waiting hp
    ⟨a.1.trans b.1, a.2.1.trans b.2.1, a.2.2.trans b.2.2⟩
  halt hp := ⟨(k.halt hp).1.trans (h.halt hp).1, (k.halt hp).2.trans (h.halt hp).2⟩
  report hp := (k.report hp).trans (h.report hp)
  inputs hp := ⟨(k.inputs hp).1.trans (h.inputs hp).1, (k.inputs hp).2.trans (h.inputs hp).2⟩

/-- A frame allows more when more is listed. -/
theorem mono {regs' : List Reg} {parts' : List Part} (h : OnlyWrites regs parts s t)
    (hr : regs ⊆ regs') (hp : parts ⊆ parts') : OnlyWrites regs' parts' s t where
  regs r hn := h.regs r fun e => hn (hr e)
  index hn := h.index fun e => hn (hp e)
  stack hn := h.stack fun e => hn (hp e)
  memory hn := h.memory fun e => hn (hp e)
  display hn := h.display fun e => hn (hp e)
  delay hn := h.delay fun e => hn (hp e)
  sound hn := h.sound fun e => hn (hp e)
  waiting hn := h.waiting fun e => hn (hp e)
  halt hn := h.halt fun e => hn (hp e)
  report hn := h.report fun e => hn (hp e)
  inputs hn := h.inputs fun e => hn (hp e)

/-! One frame for each operation the meanings are composed of. -/

theorem jump (a : Word) : OnlyWrites [] [] s (s.jump a) :=
  of_fields (by simp) (by simp) (by simp) (by simp) (by simp) (by simp) (by simp) (by simp) (by simp)
    (by simp) (by simp)

theorem advance : OnlyWrites [] [] s s.advance := jump _

theorem skipIf (c : Bool) : OnlyWrites [] [] s (s.skipIf c) := jump _

theorem setV (x : Reg) (b : Byte) : OnlyWrites [x] [] s (s.setV x b) :=
  of_fields (fun r hr => by simp [State.V_setV, List.mem_singleton.not.1 hr]) (by simp) (by simp)
    (by simp) (by simp) (by simp) (by simp) (by simp) (by simp) (by simp) (by simp)

theorem setFlag (flag : Byte) : OnlyWrites [VF] [] s (s.setFlag flag) := setV VF flag

theorem setVThenFlag (x : Reg) (b flag : Byte) : OnlyWrites [x, VF] [] s (s.setVThenFlag x b flag) :=
  ((setV x b).mono (by simp) (by simp)).trans ((setFlag flag).mono (by simp) (by simp))

theorem setI (a : Word) : OnlyWrites [] [.index] s (s.setI a) :=
  of_fields (by simp) (by simp) (by simp) (by simp) (by simp) (by simp) (by simp) (by simp) (by simp)
    (by simp) (by simp)

theorem writeBytes (a : Word) (bs : List Byte) : OnlyWrites [] [.memory] s (s.writeBytes a bs) :=
  of_fields (by simp) (by simp) (by simp) (by simp) (by simp) (by simp) (by simp) (by simp) (by simp)
    (by simp) (by simp)

theorem loadRegs (x : Reg) (a : Word) :
    OnlyWrites ((List.finRange 16).filter fun k => decide (k ≤ x)) [] s (s.loadRegs x a) :=
  of_fields (fun r hr => by simp at hr; simp [State.V_loadRegs, hr]) (by simp) (by simp) (by simp)
    (by simp) (by simp) (by simp) (by simp) (by simp) (by simp) (by simp)

theorem showFrame (fb : Framebuffer) : OnlyWrites [] [.display] s (s.showFrame fb) :=
  of_fields (by simp) (by simp) (by simp) (by simp) (by simp) (by simp) (by simp) (by simp) (by simp)
    (by simp) (by simp)

theorem takeFault (cause : Word → Fault) : OnlyWrites [] [.halt] s (s.takeFault cause) :=
  of_fields (by simp) (by simp) (by simp) (by simp) (by simp) (by simp) (by simp) (by simp) (by simp)
    (by simp) (by simp)

theorem unrecognized (w : Word) : OnlyWrites [] [.report] s (s.unrecognized w) :=
  of_fields (by simp) (by simp) (by simp) (by simp) (by simp) (by simp) (by simp) (by simp) (by simp)
    (by simp) (by simp)

theorem push (a : Word) : OnlyWrites [] [.stack] s (s.push a) :=
  of_fields (by simp) (by simp) (by simp) (by simp) (by simp) (by simp) (by simp) (by simp) (by simp)
    (by simp) (by simp)

theorem pop : OnlyWrites [] [.stack] s s.pop :=
  of_fields (by simp) (by simp) (by simp) (by simp) (by simp) (by simp) (by simp) (by simp) (by simp)
    (by simp) (by simp)

theorem setDelay (b : Byte) : OnlyWrites [] [.delay] s (s.setDelay b) :=
  of_fields (by simp) (by simp) (by simp) (by simp) (by simp) (by simp) (by simp) (by simp) (by simp)
    (by simp) (by simp)

theorem setSound (b : Byte) : OnlyWrites [] [.sound] s (s.setSound b) :=
  of_fields (by simp) (by simp) (by simp) (by simp) (by simp) (by simp) (by simp) (by simp) (by simp)
    (by simp) (by simp)

theorem awaitKey (x : Reg) : OnlyWrites [] [.waiting] s (s.awaitKey x) :=
  of_fields (by simp) (by simp) (by simp) (by simp) (by simp) (by simp) (by simp) (by simp) (by simp)
    (by simp) (by simp)

/-- What a step adds after the instruction. -/
theorem finishStep : OnlyWrites [] [.delay, .sound, .inputs] s s.finishStep :=
  of_fields (by simp) (by simp) (by simp) (by simp) (by simp) (by simp) (by simp) (by simp) (by simp)
    (by simp) (by simp)

end OnlyWrites

end Sys2Proof.Machine
end

