-- ==== Sys2Proof/Laws/Keys.lean ====
section
/-! SUPPORT. The poll step: which keys count as newly pressed and the two ways a poll can end
(spec/44_keys_timers_random.md R204). -/

namespace Sys2Proof.Machine

namespace State

variable (s : State)

theorem mem_newlyPressed {k : Fin 16} :
    k ∈ s.newlyPressed ↔ s.keyPressed k = true ∧ s.prevKeys[k.val] = false := by
  simp [newlyPressed]

theorem newlyPressed_sorted : s.newlyPressed.Pairwise (· < ·) :=
  (List.pairwise_lt_finRange 16).sublist List.filter_sublist

/-- Everything a poll can do: with no newly pressed key it keeps the snapshot; else the lowest such key
goes to the waiting register, the wait ends and `PC` moves on (R204). -/
theorem pollKeys_cases :
    ((∀ k, ¬(s.keyPressed k = true ∧ s.prevKeys[k.val] = false)) ∧
      s.pollKeys = s.keepKeys) ∨
    ∃ k, (s.keyPressed k = true ∧ s.prevKeys[k.val] = false) ∧
      (∀ j, s.keyPressed j = true ∧ s.prevKeys[j.val] = false → k ≤ j) ∧
      s.pollKeys = (s.setV s.waitX (BitVec.ofNat 8 k.val)).endWait.advance := by
  cases h : s.newlyPressed with
  | nil =>
    refine .inl ⟨fun k hk => ?_, by simp [pollKeys, h]⟩
    have := s.mem_newlyPressed.2 hk
    simp [h] at this
  | cons k ks =>
    refine .inr ⟨k, s.mem_newlyPressed.1 (by simp [h]), fun j hj => ?_, by simp [pollKeys, h]⟩
    have hj := s.mem_newlyPressed.2 hj
    have hs := s.newlyPressed_sorted
    rw [h] at hj hs
    rcases List.mem_cons.1 hj with rfl | hj
    · exact le_refl _
    · exact le_of_lt ((List.pairwise_cons.1 hs).1 j hj)

end State

end Sys2Proof.Machine
end

