-- ==== Sys2Proof/Laws/PerInstr.lean ====
section
/-! SUPPORT. Statements about every instruction as syntax, one lemma for each constructor. -/

namespace Sys2Proof.Laws.TableRow

/-- The word of an instruction has the fixed bits its row of the opcode map gives it (R96). -/
def Statement (i : Instr) : Prop := encode i &&& i.row.1 = i.row.2

theorem nnn_row (op : Nibble) (nnn : Addr12) :
    formNNN op nnn &&& 0xF000 = op.setWidth 16 <<< 12 := by
  rw [and_mask_op, fieldOp_formNNN]

theorem xnn_row (op : Nibble) (x : Reg) (nn : Byte) :
    formXNN op x nn &&& 0xF000 = op.setWidth 16 <<< 12 := by
  rw [and_mask_op, fieldOp_formXNN]

theorem x_row (op : Nibble) (x : Reg) (nn : Byte) :
    formXNN op x nn &&& 0xF0FF = op.setWidth 16 <<< 12 ||| nn.setWidth 16 := by
  rw [and_mask_op_nn, fieldOp_formXNN, fieldNN_formXNN]

theorem xy_row (op : Nibble) (x y : Reg) (n : Nibble) :
    formXYN op x y n &&& 0xF00F = op.setWidth 16 <<< 12 ||| n.setWidth 16 := by
  rw [and_mask_op_n, fieldOp_formXYN, fieldN_formXYN]

theorem xyn_row (op : Nibble) (x y : Reg) (n : Nibble) :
    formXYN op x y n &&& 0xF000 = op.setWidth 16 <<< 12 := by
  rw [and_mask_op, fieldOp_formXYN]

theorem sys (nnn : Addr12) : Statement (.sys nnn) := nnn_row 0x0 nnn
theorem cls : Statement .cls := rfl
theorem ret : Statement .ret := rfl
theorem jp (nnn : Addr12) : Statement (.jp nnn) := nnn_row 0x1 nnn
theorem call (nnn : Addr12) : Statement (.call nnn) := nnn_row 0x2 nnn
theorem seImm (x : Reg) (nn : Byte) : Statement (.seImm x nn) := xnn_row 0x3 x nn
theorem sneImm (x : Reg) (nn : Byte) : Statement (.sneImm x nn) := xnn_row 0x4 x nn
theorem seReg (x y : Reg) : Statement (.seReg x y) := xyn_row 0x5 x y 0x0
theorem ldImm (x : Reg) (nn : Byte) : Statement (.ldImm x nn) := xnn_row 0x6 x nn
theorem addImm (x : Reg) (nn : Byte) : Statement (.addImm x nn) := xnn_row 0x7 x nn
theorem ldReg (x y : Reg) : Statement (.ldReg x y) := xy_row 0x8 x y 0x0
theorem orReg (x y : Reg) : Statement (.orReg x y) := xy_row 0x8 x y 0x1
theorem andReg (x y : Reg) : Statement (.andReg x y) := xy_row 0x8 x y 0x2
theorem xorReg (x y : Reg) : Statement (.xorReg x y) := xy_row 0x8 x y 0x3
theorem addReg (x y : Reg) : Statement (.addReg x y) := xy_row 0x8 x y 0x4
theorem sub (x y : Reg) : Statement (.sub x y) := xy_row 0x8 x y 0x5
theorem shr (x : Reg) : Statement (.shr x) := xy_row 0x8 x 0 0x6
theorem subn (x y : Reg) : Statement (.subn x y) := xy_row 0x8 x y 0x7
theorem shl (x : Reg) : Statement (.shl x) := xy_row 0x8 x 0 0xE
theorem sneReg (x y : Reg) : Statement (.sneReg x y) := xyn_row 0x9 x y 0x0
theorem ldI (nnn : Addr12) : Statement (.ldI nnn) := nnn_row 0xA nnn
theorem jpV0 (nnn : Addr12) : Statement (.jpV0 nnn) := nnn_row 0xB nnn
theorem rnd (x : Reg) (nn : Byte) : Statement (.rnd x nn) := xnn_row 0xC x nn
theorem drw (x y : Reg) (n : Nibble) : Statement (.drw x y n) := xyn_row 0xD x y n
theorem skp (x : Reg) : Statement (.skp x) := x_row 0xE x 0x9E
theorem sknp (x : Reg) : Statement (.sknp x) := x_row 0xE x 0xA1
theorem ldVxDt (x : Reg) : Statement (.ldVxDt x) := x_row 0xF x 0x07
theorem ldVxK (x : Reg) : Statement (.ldVxK x) := x_row 0xF x 0x0A
theorem ldDtVx (x : Reg) : Statement (.ldDtVx x) := x_row 0xF x 0x15
theorem ldStVx (x : Reg) : Statement (.ldStVx x) := x_row 0xF x 0x18
theorem addI (x : Reg) : Statement (.addI x) := x_row 0xF x 0x1E
theorem ldF (x : Reg) : Statement (.ldF x) := x_row 0xF x 0x29
theorem ldB (x : Reg) : Statement (.ldB x) := x_row 0xF x 0x33
theorem ldMemVx (x : Reg) : Statement (.ldMemVx x) := x_row 0xF x 0x55
theorem ldVxMem (x : Reg) : Statement (.ldVxMem x) := x_row 0xF x 0x65

end Sys2Proof.Laws.TableRow
end

