-- ==== Sys2Proof/Laws/Step.lean ====
section
/-! SUPPORT. The cases of a step (spec/60_exceptions.md R220) and of the three meanings that have more than
one outcome (spec/40_flow.md R121, R123, spec/44_keys_timers_random.md R201, R202). -/

namespace Sys2Proof.Machine

section
variable {s : State}

theorem step_of_halted (h : s.halted = true) : step s = .next s := by simp [step, h]

theorem step_of_wait (h : s.halted = false) (hw : s.wait = true) :
    step s = .next s.beginStep.pollKeys.finishStep := by simp [step, h, hw]

theorem step_of_decoded {i : Instr} (h : s.halted = false) (hw : s.wait = false)
    (hd : decodeWord s.fetchWord = .ok i) :
    step s = match exec i s.beginStep with
      | .next t => .next t.finishStep
      | .fault r => .fault r
      | .refused r => .refused r := by
  have hf : s.beginStep.fetchWord = s.fetchWord := rfl
  have he : executeCycle s.beginStep = exec i s.beginStep := by simp only [executeCycle, hf, hd]
  unfold step
  rw [h, hw, he]
  cases exec i s.beginStep <;> rfl

theorem step_of_unrecognized {e : DecodeReject} (h : s.halted = false) (hw : s.wait = false)
    (hd : decodeWord s.fetchWord = .error e) :
    step s = .next (s.beginStep.unrecognized s.fetchWord).finishStep := by
  have hf : s.beginStep.fetchWord = s.fetchWord := rfl
  simp [step, h, hw, executeCycle, hf, hd]

/-- Everything a step that answers a next state can have done. -/
theorem step_cases {t : State} (h : step s = .next t) :
    (s.halted = true ∧ t = s) ∨
    (s.halted = false ∧ s.wait = true ∧ t = s.beginStep.pollKeys.finishStep) ∨
    (s.halted = false ∧ s.wait = false ∧ ∃ i u, decodeWord s.fetchWord = .ok i ∧
      exec i s.beginStep = .next u ∧ t = u.finishStep) ∨
    (s.halted = false ∧ s.wait = false ∧ ∃ e, decodeWord s.fetchWord = .error e ∧
      t = (s.beginStep.unrecognized s.fetchWord).finishStep) := by
  cases hh : s.halted with
  | true =>
    rw [step_of_halted hh] at h
    exact .inl ⟨rfl, by injection h with h; exact h.symm⟩
  | false =>
    cases hw : s.wait with
    | true =>
      rw [step_of_wait hh hw] at h
      exact .inr (.inl ⟨rfl, rfl, by injection h with h; exact h.symm⟩)
    | false =>
      cases hd : decodeWord s.fetchWord with
      | error e =>
        rw [step_of_unrecognized hh hw hd] at h
        exact .inr (.inr (.inr ⟨rfl, rfl, e, rfl, by injection h with h; exact h.symm⟩))
      | ok i =>
        rw [step_of_decoded hh hw hd] at h
        cases hu : exec i s.beginStep with
        | next u =>
          rw [hu] at h
          exact .inr (.inr (.inl ⟨rfl, rfl, i, u, rfl, hu, by injection h with h; exact h.symm⟩))
        | fault r => rw [hu] at h; cases h
        | refused r => rw [hu] at h; cases h

/-- A return either halts on an empty stack or pops the most recent entry (R121, R226). -/
theorem execRet_cases : (s.stack = [] ∧ execRet s = .next (s.takeFault .stackUnderflow)) ∨
    ∃ st a, s.stack = st ++ [a] ∧ execRet s = .next (s.pop.jump a) := by
  rcases List.eq_nil_or_concat s.stack with h | ⟨st, a, h⟩
  · exact .inl ⟨h, by simp [execRet, h]⟩
  · exact .inr ⟨st, a, by simpa using h, by simp [execRet, h]⟩

/-- A call either halts on a full stack or pushes the return address (R123, R227). -/
theorem execCall_cases (nnn : Addr12) :
    (Config.stackDepth ≤ s.sp ∧ execCall nnn s = .next (s.takeFault .stackOverflow)) ∨
    (s.sp < Config.stackDepth ∧
      execCall nnn s = .next ((s.push (trunc12 (s.pc + 2))).jump (immAddr nnn))) := by
  unfold execCall
  split
  · rename_i h; exact .inl ⟨h, rfl⟩
  · rename_i h; exact .inr ⟨by omega, rfl⟩

/-- `SKP` and `SKNP` skip on the state of a key that exists, and are refused on an index above 15 (R201,
R202, R232). -/
theorem execSkp_cases (x : Reg) :
    (15 < (s.V x).toNat ∧ execSkp x s = .refused (.keyIndexOutOfRange s.pc (s.V x)) ∧
      execSknp x s = .refused (.keyIndexOutOfRange s.pc (s.V x))) ∨
    ∃ k : Fin 16, (s.V x).toNat = k.val ∧ execSkp x s = .next (s.skipIf (s.keyPressed k)) ∧
      execSknp x s = .next (s.skipIf (!s.keyPressed k)) := by
  cases h : keyIndex (s.V x) with
  | none => exact .inl ⟨keyIndex_eq_none.1 h, by simp [execSkp, h], by simp [execSknp, h]⟩
  | some k => exact .inr ⟨k, keyIndex_eq_some.1 h, by simp [execSkp, h], by simp [execSknp, h]⟩

end

end Sys2Proof.Machine
end

