-- ==== Sys2Proof/Laws/Timers.lean ====
section
/-! SUPPORT. The timers: the tick as one truncated subtraction, and the range it keeps
(spec/10_state.md R30, spec/60_exceptions.md R221, R222). -/

namespace Sys2Proof.Machine

/-- The tick's accumulator, the case of a timer at zero included (R221). -/
theorem decayed_eq (acc : Rat) (e : Seconds) : decayed acc e = max 0 (acc - 60 * e.val) := by
  unfold decayed
  split
  · rename_i h0
    have : (0 : Rat) ≤ e.val := e.property
    rw [h0, max_eq_left]; linarith
  · rfl

theorem decayed_nonneg (acc : Rat) (e : Seconds) : 0 ≤ decayed acc e := by
  unfold decayed; split
  · exact le_refl 0
  · exact le_max_left _ _

theorem decayed_le (acc : Rat) (e : Seconds) (h : 0 ≤ acc) : decayed acc e ≤ acc := by
  rw [decayed_eq acc e]
  have : (0 : Rat) ≤ e.val := e.property
  exact max_le h (by linarith)

/-- The floor of an accumulator in range fits the 8-bit observable value (R30). -/
theorem floorByte_toNat {q : Rat} (h0 : 0 ≤ q) (h1 : q ≤ 255) : ((floorByte q).toNat : Int) = q.floor := by
  have f0 : 0 ≤ q.floor := Rat.le_floor_iff.2 (by exact_mod_cast h0)
  have f1 : q.floor ≤ 255 := by
    have h : ((q.floor : Int) : Rat) ≤ ((255 : Int) : Rat) := le_trans (Rat.floor_le q) (by exact_mod_cast h1)
    exact_mod_cast h
  simp only [floorByte, trunc8, BitVec.toNat_ofNat]
  omega

/-- `Timer.set` leaves a timer in range (R222). -/
theorem ofByte_inv (b : Byte) : (Timer.ofByte b).Inv := by
  have hb := b.isLt
  refine ⟨?_, ?_, ?_⟩
  · show (0 : Rat) ≤ (b.toNat : Rat)
    exact_mod_cast Nat.zero_le _
  · show ((b.toNat : Nat) : Rat) ≤ 255
    have : b.toNat ≤ 255 := by omega
    exact_mod_cast this
  · show (b.toNat : Int) = Rat.floor ((b.toNat : Nat) : Rat)
    rw [Rat.floor_def, Rat.num_natCast, Rat.den_natCast]; simp

/-- A tick keeps a timer in range (R221). -/
theorem tick_inv {t : Timer} (h : t.Inv) (e : Seconds) : (t.tick e).Inv := by
  have h0 := decayed_nonneg t.acc e
  have h1 := le_trans (decayed_le t.acc e h.nonneg) h.le_max
  exact ⟨h0, h1, floorByte_toNat h0 h1⟩

/-- A tick raises neither the accumulator nor the observable value (R221, R223). -/
theorem tick_le {t : Timer} (h : t.Inv) (e : Seconds) :
    (t.tick e).acc ≤ t.acc ∧ (t.tick e).val ≤ t.val := by
  have le := decayed_le t.acc e h.nonneg
  have new := (tick_inv h e).isFloor
  have old := h.isFloor
  have : (t.tick e).acc.floor ≤ t.acc.floor := Rat.floor_monotone le
  exact ⟨le, by rw [BitVec.le_def]; omega⟩

end Sys2Proof.Machine
end

