-- ==== Sys2Proof/Tests/Slice0.lean ====
section
/-! SUPPORT. The model's own tests. Words are written out from the table of spec/30_encoding.md R96; the
expected results of the steps are those of spec/95_test_vectors.md or of the examples in the rules. At the
end, one witness for the hypotheses of each statement of Certificates/Slice0/Obligations.lean. -/

namespace Sys2Proof.Tests

open Sys2Proof.Machine

/-! ### WellFormed -/

theorem test_wellFormed_refuses_sys_0E0 : (Instr.sys 0x0E0).wellFormed = false := by decide
theorem test_wellFormed_refuses_sys_0EE : (Instr.sys 0x0EE).wellFormed = false := by decide
theorem test_wellFormed_sys_0E1 : (Instr.sys 0x0E1).wellFormed = true := by decide

/-! ### Decoding, one word for each constructor -/

theorem test_decode_sys : decodeTableWord 16 0x01E0 = some (.sys 0x1E0) := by decide
theorem test_decode_cls : decodeTableWord 16 0x00E0 = some .cls := by decide
theorem test_decode_ret : decodeTableWord 16 0x00EE = some .ret := by decide
theorem test_decode_jp : decodeTableWord 16 0x1ABC = some (.jp 0xABC) := by decide
theorem test_decode_call : decodeTableWord 16 0x2FFE = some (.call 0xFFE) := by decide
theorem test_decode_seImm : decodeTableWord 16 0x3A07 = some (.seImm 10 0x07) := by decide
theorem test_decode_sneImm : decodeTableWord 16 0x4A07 = some (.sneImm 10 0x07) := by decide
theorem test_decode_seReg : decodeTableWord 16 0x5AB7 = some (.seReg 10 11) := by decide
theorem test_decode_ldImm : decodeTableWord 16 0x6A02 = some (.ldImm 10 0x02) := by decide
theorem test_decode_addImm : decodeTableWord 16 0x7A05 = some (.addImm 10 0x05) := by decide
theorem test_decode_ldReg : decodeTableWord 16 0x8AB0 = some (.ldReg 10 11) := by decide
theorem test_decode_orReg : decodeTableWord 16 0x8AB1 = some (.orReg 10 11) := by decide
theorem test_decode_andReg : decodeTableWord 16 0x8AB2 = some (.andReg 10 11) := by decide
theorem test_decode_xorReg : decodeTableWord 16 0x8AB3 = some (.xorReg 10 11) := by decide
theorem test_decode_addReg : decodeTableWord 16 0x8AB4 = some (.addReg 10 11) := by decide
theorem test_decode_sub : decodeTableWord 16 0x8AB5 = some (.sub 10 11) := by decide
theorem test_decode_shr : decodeTableWord 16 0x8AB6 = some (.shr 10) := by decide
theorem test_decode_subn : decodeTableWord 16 0x8AB7 = some (.subn 10 11) := by decide
theorem test_decode_shl : decodeTableWord 16 0x8ABE = some (.shl 10) := by decide
theorem test_decode_sneReg : decodeTableWord 16 0x9AB5 = some (.sneReg 10 11) := by decide
theorem test_decode_ldI : decodeTableWord 16 0xA2F0 = some (.ldI 0x2F0) := by decide
theorem test_decode_jpV0 : decodeTableWord 16 0xB300 = some (.jpV0 0x300) := by decide
theorem test_decode_rnd : decodeTableWord 16 0xC30F = some (.rnd 3 0x0F) := by decide
theorem test_decode_drw : decodeTableWord 16 0xD125 = some (.drw 1 2 5) := by decide
theorem test_decode_skp : decodeTableWord 16 0xE59E = some (.skp 5) := by decide
theorem test_decode_sknp : decodeTableWord 16 0xE5A1 = some (.sknp 5) := by decide
theorem test_decode_ldVxDt : decodeTableWord 16 0xF507 = some (.ldVxDt 5) := by decide
theorem test_decode_ldVxK : decodeTableWord 16 0xF50A = some (.ldVxK 5) := by decide
theorem test_decode_ldDtVx : decodeTableWord 16 0xF515 = some (.ldDtVx 5) := by decide
theorem test_decode_ldStVx : decodeTableWord 16 0xF518 = some (.ldStVx 5) := by decide
theorem test_decode_addI : decodeTableWord 16 0xF51E = some (.addI 5) := by decide
theorem test_decode_ldF : decodeTableWord 16 0xF529 = some (.ldF 5) := by decide
theorem test_decode_ldB : decodeTableWord 16 0xF533 = some (.ldB 5) := by decide
theorem test_decode_ldMemVx : decodeTableWord 16 0xF555 = some (.ldMemVx 5) := by decide
theorem test_decode_ldVxMem : decodeTableWord 16 0xF565 = some (.ldVxMem 5) := by decide

/-- The words R98 and section 2.1 of 95_test_vectors.md call unrecognized, families 8, E and F. -/
theorem test_decode_rejects : [0x8AB8, 0x8AB9, 0x8ABF, 0xE59F, 0xE500, 0xE5A0, 0xF000, 0xF5FF, 0xF575,
    0xF530].all (fun w => decodeTableWord 16 w == none) = true := by decide

/-! ### One step of each instruction -/

/-- The state after reset with the registers of the list set. -/
def regs (l : List (Reg × Byte)) : State := l.foldl (fun s r => s.setV r.1 r.2) State.reset

/-- The state after one step from `s` on the word `w`, if the step has one. -/
def after (s : State) (w : Nat) : Option State :=
  match step (s.withFetchWord 16 w) with
  | .next t => some t
  | _ => none

/-- The inputs of a step with the keys of the list pressed. -/
def pressing (l : List (Fin 16)) (rand : Byte) : StepInput :=
  { keys := Vector.ofFn fun k => l.contains k, elapsed := ⟨0, le_refl 0⟩, rand := rand }

theorem test_sys : (after State.reset 0x0123).map (fun t => (t.pc, t.report)) =
    some (0x202, some { pc := 0x200, word := 0x0123 }) := by decide
theorem test_cls : (after (State.reset.showFrame (Framebuffer.blank.flip 3 4)) 0x00E0).map
    (fun t => (t.pc, t.dirty, t.fb.pixel 3 4)) = some (0x202, true, false) := by decide
theorem test_cls_marks_dirty : (after State.reset 0x00E0).map (·.dirty) = some true := by decide
theorem test_ret : (after ((State.reset.push 0x202).push 0x345) 0x00EE).map (fun t => (t.pc, t.stack)) =
    some (0x345, [0x202]) := by decide
theorem test_ret_empty : (after State.reset 0x00EE).map (fun t => (t.pc, t.halted, t.fault)) =
    some (0x200, true, some (.stackUnderflow 0x200)) := by decide
theorem test_jp : (after State.reset 0x1201).map (·.pc) = some 0x201 := by decide
theorem test_call_wraps : (after (State.reset.jump 0xFFE) 0x2FFE).map (fun t => (t.pc, t.stack)) =
    some (0xFFE, [0x000]) := by decide
theorem test_call_full : (after ((List.range 16).foldl (fun s _ => s.push 0x202) State.reset) 0x2300).map
    (fun t => (t.pc, t.sp, t.fault)) = some (0x200, 16, some (.stackOverflow 0x200)) := by decide
theorem test_seImm : (after (regs [(10, 7)]) 0x3A07).map (·.pc) = some 0x204 := by decide
theorem test_seImm_wraps : (after ((regs [(10, 7)]).jump 0xFFE) 0x3A07).map (·.pc) = some 0x002 := by decide
theorem test_sneImm : (after (regs [(10, 7)]) 0x4A07).map (·.pc) = some 0x202 := by decide
theorem test_sneImm_taken : (after (regs [(10, 8)]) 0x4A07).map (·.pc) = some 0x204 := by decide
theorem test_seReg : (after (regs [(10, 3), (11, 3)]) 0x5AB7).map (·.pc) = some 0x204 := by decide
theorem test_seReg_not : (after (regs [(10, 3), (11, 4)]) 0x5AB0).map (·.pc) = some 0x202 := by decide
theorem test_sneReg : (after (regs [(10, 3), (11, 4)]) 0x9AB5).map (·.pc) = some 0x204 := by decide
theorem test_sneReg_not : (after (regs [(5, 9)]) 0x9550).map (·.pc) = some 0x202 := by decide
theorem test_jpV0 : (after (regs [(0, 0xFF)]) 0xBFFF).map (fun t => (t.pc, t.V VF)) =
    some (0x0FE, 0) := by decide
theorem test_ldImm : (after State.reset 0x6FFF).map (fun t => (t.V VF, t.pc)) = some (0xFF, 0x202) := by
  decide
theorem test_addImm : (after (regs [(10, 0xFF), (15, 0x77)]) 0x7A01).map (fun t => (t.V 10, t.V VF)) =
    some (0x00, 0x77) := by decide
theorem test_addImm_to_VF : (after (regs [(15, 0xFF)]) 0x7F02).map (·.V VF) = some 0x01 := by decide
theorem test_ldReg : (after (regs [(11, 0x5C)]) 0x8AB0).map (·.V 10) = some 0x5C := by decide
theorem test_orReg : (after (regs [(10, 0xF0), (11, 0x0F), (15, 0x55)]) 0x8AB1).map
    (fun t => (t.V 10, t.V VF)) = some (0xFF, 0x55) := by decide
theorem test_andReg : (after (regs [(10, 0xF0), (11, 0x3C)]) 0x8AB2).map (·.V 10) = some 0x30 := by decide
theorem test_xorReg : (after (regs [(10, 0xF0), (11, 0x3C)]) 0x8AB3).map (·.V 10) = some 0xCC := by decide
theorem test_addReg : (after (regs [(10, 250), (11, 10)]) 0x8AB4).map (fun t => (t.V 10, t.V VF)) =
    some (4, 1) := by decide
theorem test_addReg_to_VF : (after (regs [(15, 200), (11, 100)]) 0x8FB4).map (·.V VF) = some 1 := by decide
theorem test_sub : (after (regs [(10, 10), (11, 20)]) 0x8AB5).map (fun t => (t.V 10, t.V VF)) =
    some (246, 0) := by decide
theorem test_sub_equal : (after (regs [(10, 7), (11, 7)]) 0x8AB5).map (fun t => (t.V 10, t.V VF)) =
    some (0, 1) := by decide
theorem test_shr : (after (regs [(10, 0x05), (11, 0xFF)]) 0x8AB6).map (fun t => (t.V 10, t.V VF)) =
    some (0x02, 1) := by decide
theorem test_shr_VF : (after (regs [(15, 0x02)]) 0x8F06).map (·.V VF) = some 0 := by decide
theorem test_subn : (after (regs [(10, 20), (11, 10)]) 0x8AB7).map (fun t => (t.V 10, t.V VF)) =
    some (246, 0) := by decide
theorem test_subn_equal : (after (regs [(10, 7), (11, 7)]) 0x8AB7).map (fun t => (t.V 10, t.V VF)) =
    some (0, 1) := by decide
theorem test_shl : (after (regs [(10, 0x81), (11, 0xFF)]) 0x8ABE).map (fun t => (t.V 10, t.V VF)) =
    some (0x02, 1) := by decide
theorem test_shl_VF : (after (regs [(15, 0x7F)]) 0x8F0E).map (·.V VF) = some 0 := by decide
theorem test_ldI : (after State.reset 0xA2F0).map (·.i) = some 0x2F0 := by decide
theorem test_addI : (after ((regs [(3, 0xFF)]).setI 0xFFF) 0xF31E).map (fun t => (t.i, t.V VF)) =
    some (0x0FE, 1) := by decide
theorem test_addI_strict : (after ((regs [(3, 1), (15, 1)]).setI 0xFFE) 0xF31E).map
    (fun t => (t.i, t.V VF)) = some (0xFFF, 0) := by decide
theorem test_ldF : (after (regs [(0, 0x0A)]) 0xF029).map (·.i) = some 0x032 := by decide
theorem test_ldF_large : (after (regs [(0, 0xFF)]) 0xF029).map (·.i) = some 0x4FB := by decide
theorem test_ldB : (after ((regs [(0, 254)]).setI 0x300) 0xF033).map (·.readBytes 0x2FF 5) =
    some [0, 2, 5, 4, 0] := by decide
theorem test_ldB_wraps : (after ((regs [(0, 255)]).setI 0xFFE) 0xF033).map (·.readBytes 0xFFE 3) =
    some [2, 5, 5] := by decide
theorem test_ldMemVx : (after ((regs [(0, 1), (1, 2), (2, 3), (3, 9)]).setI 0x400) 0xF255).map
    (fun t => (t.readBytes 0x3FF 5, t.i)) = some ([0, 1, 2, 3, 0], 0x400) := by decide
theorem test_ldVxMem : (after (((regs [(3, 9)]).writeBytes 0x300 [2, 5, 4, 7]).setI 0x300) 0xF265).map
    (fun t => (t.V 0, t.V 1, t.V 2, t.V 3)) = some (2, 5, 4, 9) := by decide
theorem test_drw_clips : (after (((regs [(0, 60)]).writeByte 0x204 0xFF).setI 0x204) 0xD011).map
    (fun t => ([59, 60, 61, 62, 63, 0, 1, 2, 3].map fun x => t.fb.pixel x 0, t.V VF, t.dirty)) =
    some ([false, true, true, true, true, false, false, false, false], 0, true) := by decide
theorem test_drw_collides : (after ((((regs [(0, 60)]).writeByte 0x204 0xFF).setI 0x204).showFrame
    (Framebuffer.blank.flip 63 0)) 0xD011).map (fun t => (t.fb.pixel 62 0, t.fb.pixel 63 0, t.V VF)) =
    some (true, false, 1) := by decide
theorem test_skp : (after { regs [(5, 0x0A)] with inputs := [pressing [0x0A] 0] } 0xE59E).map (·.pc) =
    some 0x204 := by decide
theorem test_skp_refused : step ((regs [(5, 0x10)]).withFetchWord 16 0xE59E) =
    .refused (.keyIndexOutOfRange 0x200 0x10) := by rfl
theorem test_sknp : (after { regs [(5, 0x0A)] with inputs := [pressing [0x0A] 0] } 0xE5A1).map (·.pc) =
    some 0x202 := by decide
theorem test_rnd : (after { State.reset with inputs := [pressing [] 0xA7] } 0xC30F).map (·.V 3) =
    some 0x07 := by decide
theorem test_ldVxK : (after { State.reset with inputs := [pressing [5] 0] } 0xF30A).map
    (fun t => (t.pc, t.wait, t.waitX, t.prevKeys.toList.take 7)) =
    some (0x200, true, 3, [false, false, false, false, false, true, false]) := by decide
theorem test_ldVxDt : (after { State.reset with dt := { acc := 0, val := 29 } } 0xF407).map (·.V 4) =
    some 29 := by decide
theorem test_ldDtVx : exec (.ldDtVx 0) (regs [(0, 60)]) =
    .next ((regs [(0, 60)]).setDelay 60).advance := by rfl
theorem test_ldStVx : exec (.ldStVx 1) (regs [(1, 5)]) =
    .next ((regs [(1, 5)]).setSound 5).advance := by rfl

/-! ### The step -/

/-- Fetching at `0xFFF` and at an odd address (section 2.1 of 95_test_vectors.md). -/
theorem test_fetch_wraps : ((State.reset.writeBytes 0xFFF [0x6A, 0x42]).jump 0xFFF).fetchWord = 0x6A42 := by
  decide

/-- A waiting machine in which keys 5 and 9 go down: row 4 of P5. -/
def waiting : State :=
  { (State.reset.withFetchWord 16 0xF30A) with wait := true, waitX := 3, inputs := [pressing [9, 5] 0] }

theorem test_poll : (match step waiting with | .next t => some (t.pc, t.wait, t.V 3) | _ => none) =
    some (0x202, false, 5) := by decide

/-- Half a second takes the delay timer from 60 to 30 (S5). -/
theorem test_tick : (Timer.ofByte 60).tick ⟨1 / 2, by norm_num⟩ = { acc := 30, val := 30 } := by
  decide +kernel

theorem test_rom_too_large (image : List Byte) (h : image.length = 3585) :
    launch .default image = .error (.romTooLarge 3585) := by
  unfold launch State.loadImage
  rw [h]
  exact if_neg (by decide)

/-! ### Witnesses: a state and operands that meet the hypotheses of each statement that has any -/

/-- The machine of P7 with `k` pushes done. -/
def pushed (k : Nat) : State := { State.reset with stack := List.replicate k 0x202 }

/-- A halted machine: P6 after its step. -/
def stopped : State := State.reset.takeFault .stackUnderflow

theorem witness_DecodeOfEncodeIsIdentity :
    (Instr.sys 0x0EF).wellFormed = true ∧ (Instr.drw 15 15 15).wellFormed = true := by decide

theorem witness_DecodedWordIsOfItsRow : decodeWord 0x5AB7 = .ok (.seReg 10 11) := by decide

theorem witness_StepRunsTheDecodedInstruction : (State.reset.withFetchWord 16 0x6A02).running ∧
    decodeWord (State.reset.withFetchWord 16 0x6A02).fetchWord = .ok (.ldImm 10 2) := by
  unfold State.running; decide

theorem witness_FinishingAStepTicksUnlessHalted :
    State.reset.halted = false ∧ stopped.halted = true := by decide

theorem witness_UnrecognizedWordIsReportedAndSkipped : (State.reset.withFetchWord 16 0x8ABF).running ∧
    decodeWord (State.reset.withFetchWord 16 0x8ABF).fetchWord = .error (.noSuchFamily8 0x8ABF) := by
  unfold State.running; decide

theorem witness_HaltedMachineStaysAsItIs : stopped.halted = true := by decide

theorem witness_PollStoresLowestNewKey : waiting.halted = false ∧ waiting.wait = true ∧
    waiting.input.keys[(5 : Fin 16).val] = true ∧ waiting.prevKeys[(5 : Fin 16).val] = false ∧
    ∀ j : Fin 16, j < 5 → ¬(waiting.input.keys[j.val] = true ∧ waiting.prevKeys[j.val] = false) := by
  decide

/-- Row 2 of P5: key 5 is held since before the wait. -/
def holding : State := { waiting with prevKeys := (pressing [5] 0).keys, inputs := [pressing [5] 0] }

theorem witness_PollWithoutNewKeyKeepsWaiting : holding.halted = false ∧ holding.wait = true ∧
    ∀ k : Fin 16, ¬(holding.input.keys[k.val] = true ∧ holding.prevKeys[k.val] = false) := by decide

theorem witness_OnlyANewKeyEndsAWait : waiting.wait = true ∧
    step waiting = .next waiting.beginStep.pollKeys.finishStep ∧
    waiting.beginStep.pollKeys.finishStep.wait = false := ⟨rfl, rfl, by decide⟩

theorem witness_ReturnPopsIntoPc : (pushed 1).stack = [] ++ [0x202] ∧ (pushed 16).stack =
    List.replicate 15 0x202 ++ [0x202] := by decide

theorem witness_ReturnOnEmptyStackHalts : State.reset.stack = [] := rfl

theorem witness_FaultingStepDoesNotTick_call : ((pushed 16).withFetchWord 16 0x2300).running ∧
    decodeWord ((pushed 16).withFetchWord 16 0x2300).fetchWord = .ok (.call 0x300) ∧
    ((pushed 16).withFetchWord 16 0x2300).sp = 16 := by
  unfold State.running; decide

theorem witness_FaultingStepDoesNotTick : (State.reset.withFetchWord 16 0x00EE).running ∧
    decodeWord (State.reset.withFetchWord 16 0x00EE).fetchWord = .ok .ret ∧
    (State.reset.withFetchWord 16 0x00EE).stack = [] := by
  unfold State.running; decide

theorem witness_CallPushesReturnAddress : (pushed 0).sp < 16 ∧ (pushed 15).sp < 16 := by decide

theorem witness_CallOnFullStackHalts : (pushed 16).sp = 16 := by decide

theorem witness_OtherInstructionsAdvanceByTwo : setsPc (.sys 0) = false ∧ setsPc (.ldB 3) = false := by
  decide

theorem witness_AddRegistersSetsCarry : (0 : Reg) ≠ VF ∧ (14 : Reg) ≠ VF := by decide

theorem witness_SubtractionsSetNotBorrow : (0 : Reg) ≠ VF ∧ (14 : Reg) ≠ VF := by decide

theorem witness_ShiftsMoveOneBitIntoFlag : (0 : Reg) ≠ VF ∧ (14 : Reg) ≠ VF := by decide

theorem witness_BcdStoresThreeDigits :
    (∀ k < 3, 0x2FF ≠ ((0x300 : Word).toNat + k) % 4096) ∧
    (∀ k < 3, 0x001 ≠ ((0xFFE : Word).toNat + k) % 4096) := by decide

theorem witness_DumpStoresFirstRegisters : (15 : Reg) ≤ 15 ∧
    ∀ k : Reg, k ≤ 15 → 0x00F ≠ ((0xFFF : Word).toNat + k.val) % 4096 := by decide

theorem witness_LoadFillsFirstRegisters : (0 : Reg) ≤ 0 ∧ (15 : Reg) ≤ 15 := by decide

theorem witness_StoreIsSeenByTheNextFetch : (14 : Reg) < 15 ∧ (0 : Reg) < 1 ∧
    exec (.ldMemVx 15) State.reset = .next (State.reset.writeBytes 0 (State.reset.firstRegs 15)).advance :=
  ⟨by decide, by decide, rfl⟩

/-- The corner sprite of R186's example: byte `0xF0` at `(60, 31)`, column 60 lit before. -/
def cornerSprite : State :=
  (((regs [(1, 60), (2, 31)]).writeByte 0x300 0xF0).setI 0x300).showFrame (Framebuffer.blank.flip 60 31)

theorem witness_DrawXorsSpriteAndReportsCollision_covered :
    underSprite cornerSprite 1 2 1 60 31 ∧ cornerSprite.fb.pixel 60 31 = true :=
  ⟨⟨0, 0, by decide⟩, by decide⟩

theorem witness_DrawXorsSpriteAndReportsCollision_bare : ¬underSprite cornerSprite 1 2 0 63 31 ∧
    ¬∃ px py, underSprite cornerSprite 1 2 0 px py ∧ cornerSprite.fb.pixel px py = true :=
  ⟨fun ⟨_, _, h, _⟩ => absurd h (Nat.not_lt_zero _), fun ⟨_, _, ⟨_, _, h, _⟩, _⟩ =>
    absurd h (Nat.not_lt_zero _)⟩

theorem witness_KeySkipsReadTheSnapshot : ((regs [(5, 0)]).V 5).toNat = (0 : Fin 16).val ∧
    ((regs [(5, 15)]).V 5).toNat = (15 : Fin 16).val := by decide

theorem witness_KeySkipsRefuseLargeIndex : 15 < ((regs [(5, 16)]).V 5).toNat ∧
    15 < ((regs [(5, 255)]).V 5).toNat := by decide

/-- A second takes 60 from a timer at 60 and all of one at 59. -/
theorem witness_TickLosesSixtyASecond : (Timer.ofByte 60).Inv ∧ (Timer.ofByte 59).Inv ∧
    60 * (1 : Rat) ≤ (Timer.ofByte 60).acc ∧ (Timer.ofByte 59).acc < 60 * (1 : Rat) :=
  ⟨ofByte_inv _, ofByte_inv _, by decide +kernel, by decide +kernel⟩

theorem witness_TicksDependOnTotalTimeOnly : 0 ≤ (Timer.ofByte 60).acc ∧
    (1 / 2 : Rat) = 1 / 10 + 2 / 5 := by decide +kernel

/-- The machine with `LD V1, DT` where it fetches meets the invariants. -/
theorem fetching_inv (w : Nat) : (State.reset.withFetchWord 16 w).Inv where
  index   := by show (0 : Word).toNat ≤ 0xFFF; decide
  counter := by show (0x200 : Word).toNat ≤ 0xFFF; decide
  depth   := by show (pushed 0).sp ≤ 16; decide
  entries := by simp [State.withFetchWord, State.reset]
  delay   := by simp [State.withFetchWord]; exact ofByte_inv 0
  sound   := by simp [State.withFetchWord]; exact ofByte_inv 0
  memory  := State.wf_writeBytes _ Memory.wf_nil _ _
  cause   := by simp [State.withFetchWord]
  parked  := by simp [State.withFetchWord]

theorem witness_TimersRiseOnlyWhenSet : (State.reset.withFetchWord 16 0x00E0).Inv ∧
    (after State.reset 0x00E0).isSome = true ∧
    decodeWord (State.reset.withFetchWord 16 0x00E0).fetchWord = .ok .cls :=
  ⟨fetching_inv _, by decide, by decide⟩

theorem witness_OnlyListedInstructionsWriteEachPart :
    exec .cls State.reset = .next (State.reset.showFrame Framebuffer.blank).advance := rfl

theorem witness_FlagWritersLeaveZeroOrOne :
    writesFlag (.drw 0 0 0) = true ∧ writesFlag (.addReg 15 15) = true := by decide

theorem witness_ExceptionalConditionsAreTheListedOnes_refused :
    exec (.skp 5) (regs [(5, 16)]) = .refused (.keyIndexOutOfRange 0x200 16) := rfl

theorem witness_ExceptionalConditionsAreTheListedOnes_halted : exec .ret State.reset = .next stopped ∧
    State.reset.halted = false ∧ stopped.halted = true := ⟨rfl, rfl, rfl⟩

theorem witness_ExceptionalConditionsAreTheListedOnes_full :
    exec (.call 0) (pushed 16) = .next ((pushed 16).takeFault .stackOverflow) ∧
    (pushed 16).halted = false := ⟨rfl, rfl⟩

theorem witness_OnlyFourInstructionsReadTheInputs : readsInputs (.jp 0x300) = false ∧
    exec (.jp 0x300) State.reset = .next (State.reset.jump 0x300) := ⟨rfl, rfl⟩

theorem witness_StepReadsTheFirstScheduledInput : waiting.inputs = pressing [9, 5] 0 :: [] ∧
    exec .cls waiting.beginStep = .next (waiting.beginStep.showFrame Framebuffer.blank).advance := ⟨rfl, rfl⟩

theorem witness_StepKeepsTheInvariants : (State.reset.withFetchWord 16 0xF30A).Inv ∧
    (after State.reset 0xF30A).isSome = true := ⟨fetching_inv _, by decide⟩

theorem witness_ConsumingTheFrameIsInvisible_next :
    (after (State.reset.showFrame Framebuffer.blank) 0x6A02).map (·.dirty) = some true := by decide

theorem witness_ConsumingTheFrameIsInvisible_refused :
    step ((regs [(5, 0x10)]).withFetchWord 16 0xE5A1) = .refused (.keyIndexOutOfRange 0x200 0x10) := by rfl

theorem witness_ResetValues : (0x50 : Nat) ≤ 0x50 ∧ (15 : Nat) < 16 ∧ (4 : Nat) < 5 := by decide

theorem witness_LaunchLoadsTheImageVerbatim : (∀ b : Byte, (List.replicate 3584 b).length ≤ 3584) ∧
    (∀ b : Byte, 3584 < (List.replicate 3585 b).length) ∧ ([] : List Byte).length ≤ 3584 ∧
    2 ≤ [(0x00 : Byte), 0xE0].length :=
  ⟨fun _ => List.length_replicate.le, fun _ => List.length_replicate.symm ▸ by decide, by decide, by decide⟩

theorem witness_LaunchMeetsTheInvariants : ∃ s, launch .default [0x00, 0xEE] = .ok s := by
  unfold launch State.loadImage
  exact ⟨_, if_pos (by decide)⟩

theorem witness_FinishedProgramStaysFinished : (State.reset.withFetchWord 16 0x1200).finished := by
  unfold State.finished State.running; decide

end Sys2Proof.Tests
end

section
/-! THEOREMS. The jumps: what `JP` and `JP V0` compute, and that they write `PC` only (spec/40_flow.md R122,
R128). -/

namespace Sys2Proof.Machine

variable (nnn : Addr12) (s : State)

theorem exec_jp : exec (.jp nnn) s = .next (s.jump (immAddr nnn)) := rfl

theorem exec_jpV0 : exec (.jpV0 nnn) s = .next (s.jump (trunc12 (indexedTarget nnn (s.V 0)))) := rfl

/-- The sum of a 12-bit and an 8-bit number fits in a word, so the mask is the only reduction (R128). -/
theorem indexedTarget_toNat (v0 : Byte) : (indexedTarget nnn v0).toNat = nnn.toNat + v0.toNat := by
  have hn := nnn.isLt
  have hv := v0.isLt
  rw [indexedTarget, BitVec.toNat_add, immAddr_toNat, BitVec.toNat_setWidth]
  omega

end Sys2Proof.Machine
end

section
open Sys2Proof Sys2Proof.Machine

/-- Settles O17: both jumps are one `State.jump`, which writes no part of a frame; the targets are read as
numbers by `immAddr_toNat` and `indexedTarget_toNat`. -/
theorem jumpsSetPc : Obligations.JumpsSetPc := by
  intro nnn s
  constructor
  · exact ⟨_, exec_jp nnn s, immAddr_toNat nnn, .jump _⟩
  · have target : (trunc12 (indexedTarget nnn (s.V 0))).toNat = (nnn.toNat + (s.V 0).toNat) % 4096 := by
      rw [trunc12_toNat, indexedTarget_toNat]
    exact ⟨_, exec_jpV0 nnn s, target, .jump _⟩

end

section
/-! THEOREMS. The ALU instructions that write one register and no flag: `LD`, `ADD Vx, nn`, `OR`, `AND` and
`XOR` (spec/41_alu.md R142 to R147). -/

namespace Sys2Proof.Machine

/-- The default advance adds nothing to a frame (R23). -/
theorem OnlyWrites.then_advance {regs : List Reg} {parts : List Part} {s t : State}
    (h : OnlyWrites regs parts s t) : OnlyWrites regs parts s t.advance :=
  h.trans (advance.mono (List.nil_subset _) (List.nil_subset _))

variable (x y : Reg) (nn : Byte) (s : State)

theorem exec_ldImm : exec (.ldImm x nn) s = .next (s.setV x nn).advance := rfl

theorem exec_ldReg : exec (.ldReg x y) s = .next (s.setV x (s.V y)).advance := rfl

theorem exec_addImm :
    exec (.addImm x nn) s = .next (s.setV x (trunc8 ((s.V x).toNat + nn.toNat))).advance := rfl

theorem exec_orReg : exec (.orReg x y) s = .next (s.setV x (s.V x ||| s.V y)).advance := rfl

theorem exec_andReg : exec (.andReg x y) s = .next (s.setV x (s.V x &&& s.V y)).advance := rfl

theorem exec_xorReg : exec (.xorReg x y) s = .next (s.setV x (s.V x ^^^ s.V y)).advance := rfl

variable {x s} {i : Instr} {b : Byte}

/-- An instruction that is one register write and the default advance completes with that register's new
value and writes no other part, the flag included unless it is that register. -/
theorem exec_setV_advance (h : exec i s = .next (s.setV x b).advance) :
    ∃ t, exec i s = .next t ∧ t.V x = b ∧ OnlyWrites [x] [] s t :=
  ⟨_, h, by rw [State.advance_V, State.V_setV_self], (OnlyWrites.setV x b).then_advance⟩

end Sys2Proof.Machine
end

section
open Sys2Proof Sys2Proof.Machine

/-- Settles O23: each load is one register write, of the immediate or of `Vy`. -/
theorem loadsCopyWithoutFlag : Obligations.LoadsCopyWithoutFlag := by
  intro x y nn s
  constructor
  · exact exec_setV_advance (exec_ldImm x nn s)
  · exact exec_setV_advance (exec_ldReg x y s)

/-- Settles O24: the one register write is of the sum cut to 8 bits, read as a number by `trunc8_toNat`. -/
theorem addImmediateWrapsWithoutFlag : Obligations.AddImmediateWrapsWithoutFlag := by
  intro x nn s
  obtain ⟨t, done, sum, frame⟩ := exec_setV_advance (exec_addImm x nn s)
  exact ⟨t, done, by rw [sum, trunc8_toNat], frame⟩

/-- Settles O25: each is one register write, of a bit vector operation that acts bit by bit. -/
theorem logicIsBitwiseWithoutFlag : Obligations.LogicIsBitwiseWithoutFlag := by
  intro x y s
  refine ⟨?or, ?and, ?xor⟩
  case or =>
    obtain ⟨t, done, value, frame⟩ := exec_setV_advance (exec_orReg x y s)
    exact ⟨t, done, frame, fun k _ => by rw [value, BitVec.getLsbD_or]⟩
  case and =>
    obtain ⟨t, done, value, frame⟩ := exec_setV_advance (exec_andReg x y s)
    exact ⟨t, done, frame, fun k _ => by rw [value, BitVec.getLsbD_and]⟩
  case xor =>
    obtain ⟨t, done, value, frame⟩ := exec_setV_advance (exec_xorReg x y s)
    exact ⟨t, done, frame, fun k _ => by rw [value, BitVec.getLsbD_xor]⟩

end

section
/-! THEOREMS. The instructions that compute `I` from an immediate or by an addition: `LD I` and `ADD I, Vx`
(spec/42_index_memory.md R161, R162). -/

namespace Sys2Proof.Machine

variable (nnn : Addr12) (x : Reg) (s : State) (i : Word) (b : Byte)

theorem exec_ldI : exec (.ldI nnn) s = .next (s.setI (immAddr nnn)).advance := rfl

theorem exec_addI : exec (.addI x) s = .next ((s.setI (trunc12 (BitVec.ofNat 16
    (indexSum s.i (s.V x))))).setFlag (indexOverflowFlag s.i (s.V x))).advance := rfl

/-- The 16-bit word only loses multiples of 65536, so the mask leaves the sum modulo 4096 even of an `I`
above `0xFFF` (R162). -/
theorem trunc12_indexSum_toNat :
    (trunc12 (BitVec.ofNat 16 (indexSum i b))).toNat = (i.toNat + b.toNat) % 4096 := by
  rw [trunc12_toNat, BitVec.toNat_ofNat, indexSum]
  omega

theorem indexOverflowFlag_toNat :
    (indexOverflowFlag i b).toNat = if i.toNat + b.toNat > 0xFFF then 1 else 0 := by
  rw [indexOverflowFlag, flagByte_toNat, indexSum]
  exact if_congr decide_eq_true_iff rfl rfl

end Sys2Proof.Machine
end

section
open Sys2Proof Sys2Proof.Machine

/-- Settles O29: one write of `I`, of an immediate that the widening to a word leaves as it is. -/
theorem loadIndex : Obligations.LoadIndex := by
  intro nnn s
  exact ⟨_, exec_ldI nnn s, immAddr_toNat nnn, (OnlyWrites.setI _).then_advance⟩

/-- Settles O30: `I` and then `VF` are written, both from the operands before the instruction, so the flag
stands for every `x`, `VF` included (R141). -/
theorem addToIndexSetsOverflow : Obligations.AddToIndexSetsOverflow := by
  intro x s
  refine ⟨_, exec_addI x s, trunc12_indexSum_toNat s.i (s.V x), ?flag, ?frame⟩
  case flag =>
    rw [State.advance_V, State.V_setFlag, if_pos rfl, indexOverflowFlag_toNat]
  case frame =>
    exact (((OnlyWrites.setI _).mono (by simp) (by simp)).trans
      ((OnlyWrites.setFlag _).mono (by simp) (by simp))).then_advance

end

section
/-! THEOREMS. `CLS`: what it shows, and that it writes the display only (spec/43_display.md R180, R185). -/

namespace Sys2Proof.Machine

variable (s : State)

theorem exec_cls : exec .cls s = .next (s.showFrame Framebuffer.blank).advance := rfl

end Sys2Proof.Machine
end

section
open Sys2Proof Sys2Proof.Machine

/-- Settles O36: `CLS` is one `State.showFrame` of the blank buffer, whose pixels `pixel_blank` reads, and
the default advance leaves the display as shown. -/
theorem clearScreenBlanksAndMarksDirty : Obligations.ClearScreenBlanksAndMarksDirty := by
  intro s
  refine ⟨_, exec_cls s, ?unlit, ?dirty, ?frame⟩
  case unlit =>
    intro x y
    rw [State.advance_fb, State.showFrame_fb, pixel_blank]
  case dirty =>
    rw [State.advance_dirty, State.showFrame_dirty]
  case frame =>
    exact (OnlyWrites.showFrame Framebuffer.blank).then_advance

end

section
/-! THEOREMS. The launch: the machine it makes, and what memory holds of the font and of the image
(spec/70_reset_and_hazards.md R261, R262; spec/10_state.md R40). -/

namespace Sys2Proof.Machine

/-- Past the font, memory is zero at reset (R40). -/
theorem resetByte_past_font {a : Nat} (h : 0x50 ≤ a) : resetByte a = 0 :=
  List.getD_eq_default fontTable 0 h

/-- A write that ends inside the space does not wrap: byte `k` is `k` past its start (R62). -/
theorem mem_read_writeBytes (s : State) (a : Word) (bs : List Byte) (hfit : a.toNat + bs.length ≤ 4096)
    {k : Nat} (hk : k < bs.length) : (s.writeBytes a bs).mem.read (a.toNat + k) = bs[k] := by
  have inside : (a.toNat + k) % 4096 = a.toNat + k := Nat.mod_eq_of_lt (by omega)
  rw [← inside, State.read_mod_eq]
  exact s.readByte_writeBytes a bs (Nat.le_of_add_left_le hfit) k hk

/-- A write that ends inside the space leaves what lies before its start and from its end on (R62). -/
theorem mem_read_writeBytes_outside (s : State) (a : Word) (bs : List Byte)
    (hfit : a.toNat + bs.length ≤ 4096) {c : Nat} (hc : c < a.toNat ∨ a.toNat + bs.length ≤ c) :
    (s.writeBytes a bs).mem.read c = s.mem.read c := by
  refine s.mem_read_writeBytes_of_ne a bs c fun k hk => ?_
  rw [Nat.mod_eq_of_lt (by omega)]
  omega

variable (c : LaunchConfig) (image : List Byte)

/-- The machine before the image is loaded: reset, the timers and the font set (R261). -/
def fontLoaded : State :=
  ((State.reset.setDelay c.initialDelay).setSound c.initialSound).writeBytes
    (BitVec.ofNat 16 Config.fontBase) c.font.toList

/-- The machine of an accepted image, as `launch_of_le` gives it (R261). -/
def launched : State := (fontLoaded c).writeBytes (BitVec.ofNat 16 Config.progBase) image

theorem launch_eq_launched (h : image.length ≤ Config.maxImage) :
    launch c image = .ok (launched c image) := launch_of_le c h

@[simp] theorem launched_pc : (launched c image).pc = 0x200 := by simp [launched, fontLoaded, State.reset]

@[simp] theorem launched_dt : (launched c image).dt = Timer.ofByte c.initialDelay := by
  simp [launched, fontLoaded]

@[simp] theorem launched_st : (launched c image).st = Timer.ofByte c.initialSound := by
  simp [launched, fontLoaded]

/-- The launch is a chain of timer and memory writes, so the rest is as right after reset (R40). -/
theorem OnlyWrites.launched :
    OnlyWrites [] [.memory, .delay, .sound] State.reset (launched c image) :=
  .trans ((OnlyWrites.setDelay _).mono (by simp) (by simp)) <|
  .trans ((OnlyWrites.setSound _).mono (by simp) (by simp)) <|
  .trans ((OnlyWrites.writeBytes _ _).mono (by simp) (by simp)) <|
  (OnlyWrites.writeBytes _ _).mono (by simp) (by simp)

theorem fontLoaded_read_font {k : Nat} (hk : k < 80) : (fontLoaded c).mem.read k = c.font[k] := by
  have font := mem_read_writeBytes ((State.reset.setDelay c.initialDelay).setSound c.initialSound)
    (BitVec.ofNat 16 Config.fontBase) c.font.toList (by simp) (k := k) (by simpa using hk)
  simpa [fontLoaded] using font

/-- The font ends at `0x50`, where memory is still as at reset. -/
theorem fontLoaded_read_past_font {a : Nat} (h : 0x50 ≤ a) : (fontLoaded c).mem.read a = 0 := by
  rw [fontLoaded, mem_read_writeBytes_outside _ _ _ (by simp) (.inr (by simpa using h))]
  exact resetByte_past_font h

section
variable {image} (hlen : image.length ≤ 3584)
include hlen

/-- An accepted image ends inside the space: `0x200 + 3584 = 4096` (R262). -/
theorem image_fits : (BitVec.ofNat 16 Config.progBase).toNat + image.length ≤ 4096 := by
  show 0x200 + image.length ≤ 4096
  omega

theorem launched_read_image {k : Nat} (hk : k < image.length) :
    (launched c image).mem.read (0x200 + k) = image[k] :=
  mem_read_writeBytes _ _ _ (image_fits hlen) hk

theorem launched_read_outside {a : Nat} (ha : a < 0x200 ∨ 0x200 + image.length ≤ a) :
    (launched c image).mem.read a = (fontLoaded c).mem.read a :=
  mem_read_writeBytes_outside _ _ _ (image_fits hlen) ha

/-- The first instruction is the first two bytes of the image, high byte first (R63, R262). -/
theorem launched_fetchWord (h : 2 ≤ image.length) :
    (launched c image).fetchWord = wordOfBytes image[0] image[1] := by
  have high : (launched c image).readByte 0x200 = image[0] := launched_read_image c hlen (k := 0) _
  have low : (launched c image).readByte (0x200 + 1) = image[1] := launched_read_image c hlen (k := 1) _
  rw [State.fetchWord, launched_pc, high, low]

end

end Sys2Proof.Machine
end

section
open Sys2Proof Sys2Proof.Machine

/-- Settles O58: the machine of an accepted image is `launched`, whose bytes are read as the image inside its
range and outside it as before the image was loaded. -/
theorem launchLoadsTheImageVerbatim : Obligations.LaunchLoadsTheImageVerbatim := by
  intro c image
  refine ⟨fun hlen => ⟨launched c image, launch_eq_launched c image hlen, launched_pc c image,
    ?verbatim, ?after, ?between, ?font, launched_fetchWord c hlen, launched_dt c image,
    launched_st c image, .launched c image⟩, launch_of_gt c⟩
  case verbatim => exact fun k hk => launched_read_image c hlen hk
  case after =>
    intro a ha
    rw [launched_read_outside c hlen (.inr ha), fontLoaded_read_past_font c (by omega)]
  case between =>
    intro a pastFont beforeImage
    rw [launched_read_outside c hlen (.inl beforeImage), fontLoaded_read_past_font c pastFont]
  case font =>
    intro k
    rw [launched_read_outside c hlen (.inl (by omega)), fontLoaded_read_font c k.isLt]

end

section
/-! THEOREMS. The decoder and the encoder as inverses on the significant bits, family by family of R95, and
the words the decoder rejects (spec/30_encoding.md R90 to R99, R107). -/

namespace Sys2Proof

/-! ### Decoding a canonical word -/

/-- A `SYS` operand is neither of the two words family 0 takes before it (R95, R96). -/
theorem decodeFamily0_formNNN {nnn : Addr12} (h : sysOperandOk nnn = true) :
    decodeFamily0 (formNNN 0x0 nnn) = .sys nnn := by
  simp only [sysOperandOk, Bool.and_eq_true, bne_iff_ne] at h
  obtain ⟨notCls, notRet⟩ := h
  have hcls : formNNN 0x0 nnn ≠ 0x00E0 := fun e =>
    notCls ((fieldNNN_formNNN 0x0 nnn).symm.trans (congrArg fieldNNN e))
  have hret : formNNN 0x0 nnn ≠ 0x00EE := fun e =>
    notRet ((fieldNNN_formNNN 0x0 nnn).symm.trans (congrArg fieldNNN e))
  rw [decodeFamily0, if_neg hcls, if_neg hret, fieldNNN_formNNN]

/-- Each format gives back the operands and the selector it was built from, so the procedure of R95 takes
the arm of the row it was built for. -/
theorem decodeWord_encode {i : Instr} (h : i.wellFormed = true) : decodeWord (encode i) = .ok i := by
  cases i with
  | sys nnn =>
    have arm : decodeWord (formNNN 0x0 nnn) = .ok (decodeFamily0 (formNNN 0x0 nnn)) := by simp [decodeWord]
    rw [encode, arm, decodeFamily0_formNNN h]
  | cls | ret => rfl
  | jp | call | ldI | jpV0 => simp [encode, decodeWord]
  | seImm | sneImm | ldImm | addImm | rnd => simp [encode, decodeWord]
  | seReg | sneReg | drw => simp [encode, decodeWord]
  | ldReg | orReg | andReg | xorReg | addReg | sub | shr | subn | shl =>
    simp [encode, decodeWord, decodeFamily8]
  | skp | sknp => simp [encode, decodeWord, decodeFamilyE]
  | ldVxDt | ldVxK | ldDtVx | ldStVx | addI | ldF | ldB | ldMemVx | ldVxMem =>
    simp [encode, decodeWord, decodeFamilyF]

/-! ### A word from its fields -/

section
variable {w : Word} {op n : Nibble} {nn : Byte}

theorem formNNN_fields (hop : (fieldOp w).toNat = op.toNat) : formNNN op (fieldNNN w) = w := by
  apply BitVec.eq_of_toNat_eq
  have := w.isLt
  rw [fieldOp_toNat] at hop
  rw [formNNN_toNat, fieldNNN_toNat]
  omega

theorem formXNN_fields (hop : (fieldOp w).toNat = op.toNat) (hnn : (fieldNN w).toNat = nn.toNat) :
    formXNN op (fieldX w) nn = w := by
  apply BitVec.eq_of_toNat_eq
  have := w.isLt
  rw [fieldOp_toNat] at hop
  rw [fieldNN_toNat] at hnn
  rw [formXNN_toNat, fieldX_val]
  omega

theorem formXYN_fields (hop : (fieldOp w).toNat = op.toNat) (hn : (fieldN w).toNat = n.toNat) :
    formXYN op (fieldX w) (fieldY w) n = w := by
  apply BitVec.eq_of_toNat_eq
  have := w.isLt
  rw [fieldOp_toNat] at hop
  rw [fieldN_toNat] at hn
  rw [formXYN_toNat, fieldX_val, fieldY_val]
  omega

/-- A mask on a word of format `XYN` acts on each of its four nibbles. -/
theorem formXYN_and (x y : Reg) (m₁ m₂ m₃ m₄ : Nibble) :
    formXYN op x y n &&& (m₁ ++ m₂ ++ m₃ ++ m₄ : BitVec (4 + 4 + 4 + 4)) =
      ((op &&& m₁) ++ (regBits x &&& m₂) ++ (regBits y &&& m₃) ++ (n &&& m₄) :
        BitVec (4 + 4 + 4 + 4)) := by
  rw [← BitVec.and_append, ← BitVec.and_append, ← BitVec.and_append]
  rfl

/-- The mask of `5XY_` and `9XY_` clears the low nibble and nothing else (R107). -/
theorem formXYN_and_FFF0 (x y : Reg) : formXYN op x y n &&& 0xFFF0 = formXYN op x y 0x0 := by
  have masked := formXYN_and (op := op) (n := n) x y (.allOnes 4) (.allOnes 4) (.allOnes 4) 0#4
  rw [BitVec.and_allOnes, BitVec.and_allOnes, BitVec.and_allOnes, BitVec.and_zero] at masked
  exact masked

/-- The mask of `SHR` and `SHL` clears the `y` field and nothing else (R107). -/
theorem formXYN_and_FF0F (x y : Reg) : formXYN op x y n &&& 0xFF0F = formXYN op x 0 n := by
  have masked := formXYN_and (op := op) (n := n) x y (.allOnes 4) (.allOnes 4) 0#4 (.allOnes 4)
  rw [BitVec.and_allOnes, BitVec.and_allOnes, BitVec.and_allOnes, BitVec.and_zero] at masked
  exact masked

theorem formXYN_fields_zero_n (hop : (fieldOp w).toNat = op.toNat) :
    formXYN op (fieldX w) (fieldY w) 0x0 = w &&& 0xFFF0 := by
  rw [← formXYN_and_FFF0 (n := fieldN w), formXYN_fields hop rfl]

theorem formXYN_fields_zero_y (hop : (fieldOp w).toNat = op.toNat) (hn : (fieldN w).toNat = n.toNat) :
    formXYN op (fieldX w) 0 n = w &&& 0xFF0F := by
  rw [← formXYN_and_FF0F (y := fieldY w), formXYN_fields hop hn]

/-! ### Encoding a decoded instruction -/

/-- Where all bits are significant, the mask leaves the word (R107). -/
theorem and_FFFF (w : Word) : w &&& 0xFFFF = w := BitVec.and_allOnes

theorem encode_decodeFamily0 (hop : (fieldOp w).toNat = 0x0) : encode (decodeFamily0 w) = w := by
  unfold decodeFamily0
  split
  · rename_i e; exact e.symm
  split
  · rename_i e; exact e.symm
  · exact formNNN_fields hop

theorem significantBits_decodeFamily0 : significantBits (decodeFamily0 w) = 0xFFFF := by
  unfold decodeFamily0
  split
  · rfl
  split <;> rfl

theorem wellFormed_decodeFamily0 (hop : (fieldOp w).toNat = 0x0) : (decodeFamily0 w).wellFormed = true := by
  unfold decodeFamily0
  split
  · rfl
  split
  · rfl
  · rename_i notCls notRet
    have back := formNNN_fields (op := 0x0) hop
    simp only [Instr.wellFormed, sysOperandOk, Bool.and_eq_true, bne_iff_ne]
    exact ⟨fun e => notCls (by rw [← back, e]; rfl), fun e => notRet (by rw [← back, e]; rfl)⟩

variable {i : Instr}

theorem encode_of_decodeFamily8 (hop : (fieldOp w).toNat = 0x8) (h : decodeFamily8 w = .ok i) :
    i.wellFormed = true ∧ encode i = w &&& significantBits i := by
  unfold decodeFamily8 at h
  split at h
  -- `SHR` and `SHL`, which ignore `y`; then no selector of family 8
  case h_7 hn | h_9 hn => cases h; exact ⟨rfl, formXYN_fields_zero_y hop hn⟩
  case h_10 => cases h
  all_goals
    rename_i hn
    cases h
    exact ⟨rfl, (formXYN_fields hop hn).trans (and_FFFF w).symm⟩

theorem encode_of_decodeFamilyE (hop : (fieldOp w).toNat = 0xE) (h : decodeFamilyE w = .ok i) :
    i.wellFormed = true ∧ encode i = w &&& significantBits i := by
  unfold decodeFamilyE at h
  split at h
  case h_3 => cases h
  all_goals
    rename_i hnn
    cases h
    exact ⟨rfl, (formXNN_fields hop hnn).trans (and_FFFF w).symm⟩

theorem encode_of_decodeFamilyF (hop : (fieldOp w).toNat = 0xF) (h : decodeFamilyF w = .ok i) :
    i.wellFormed = true ∧ encode i = w &&& significantBits i := by
  unfold decodeFamilyF at h
  split at h
  case h_10 => cases h
  all_goals
    rename_i hnn
    cases h
    exact ⟨rfl, (formXNN_fields hop hnn).trans (and_FFFF w).symm⟩

theorem encode_of_decodeWord (h : decodeWord w = .ok i) :
    i.wellFormed = true ∧ encode i = w &&& significantBits i := by
  unfold decodeWord at h
  split at h
  all_goals rename_i hop
  -- family 0
  case h_1 =>
    cases h
    rw [significantBits_decodeFamily0, and_FFFF]
    exact ⟨wellFormed_decodeFamily0 hop, encode_decodeFamily0 hop⟩
  -- `5XY_` and `9XY_`, which ignore the low nibble
  case h_6 | h_10 => cases h; exact ⟨rfl, formXYN_fields_zero_n hop⟩
  -- the families selected further
  case h_9 => exact encode_of_decodeFamily8 hop h
  case h_15 => exact encode_of_decodeFamilyE hop h
  case h_16 =>
    have lastNibble : (fieldOp w).toNat = 0xF := by
      have lt := (fieldOp w).isLt
      grind
    exact encode_of_decodeFamilyF lastNibble h
  -- the formats `NNN`, `XNN` and `XYN`
  case h_2 | h_3 | h_11 | h_12 => cases h; exact ⟨rfl, (formNNN_fields hop).trans (and_FFFF w).symm⟩
  case h_4 | h_5 | h_7 | h_8 | h_13 =>
    cases h; exact ⟨rfl, (formXNN_fields hop rfl).trans (and_FFFF w).symm⟩
  case h_14 => cases h; exact ⟨rfl, (formXYN_fields hop rfl).trans (and_FFFF w).symm⟩

end

/-! ### The rows of the opcode map -/

/-- Every canonical word has the fixed bits of its row (R96). -/
theorem encode_of_row : ∀ i : Instr, encode i &&& i.row.1 = i.row.2
  | .sys nnn     => Laws.TableRow.sys nnn
  | .cls         => Laws.TableRow.cls
  | .ret         => Laws.TableRow.ret
  | .jp nnn      => Laws.TableRow.jp nnn
  | .call nnn    => Laws.TableRow.call nnn
  | .seImm x nn  => Laws.TableRow.seImm x nn
  | .sneImm x nn => Laws.TableRow.sneImm x nn
  | .seReg x y   => Laws.TableRow.seReg x y
  | .ldImm x nn  => Laws.TableRow.ldImm x nn
  | .addImm x nn => Laws.TableRow.addImm x nn
  | .ldReg x y   => Laws.TableRow.ldReg x y
  | .orReg x y   => Laws.TableRow.orReg x y
  | .andReg x y  => Laws.TableRow.andReg x y
  | .xorReg x y  => Laws.TableRow.xorReg x y
  | .addReg x y  => Laws.TableRow.addReg x y
  | .sub x y     => Laws.TableRow.sub x y
  | .shr x       => Laws.TableRow.shr x
  | .subn x y    => Laws.TableRow.subn x y
  | .shl x       => Laws.TableRow.shl x
  | .sneReg x y  => Laws.TableRow.sneReg x y
  | .ldI nnn     => Laws.TableRow.ldI nnn
  | .jpV0 nnn    => Laws.TableRow.jpV0 nnn
  | .rnd x nn    => Laws.TableRow.rnd x nn
  | .drw x y n   => Laws.TableRow.drw x y n
  | .skp x       => Laws.TableRow.skp x
  | .sknp x      => Laws.TableRow.sknp x
  | .ldVxDt x    => Laws.TableRow.ldVxDt x
  | .ldVxK x     => Laws.TableRow.ldVxK x
  | .ldDtVx x    => Laws.TableRow.ldDtVx x
  | .ldStVx x    => Laws.TableRow.ldStVx x
  | .addI x      => Laws.TableRow.addI x
  | .ldF x       => Laws.TableRow.ldF x
  | .ldB x       => Laws.TableRow.ldB x
  | .ldMemVx x   => Laws.TableRow.ldMemVx x
  | .ldVxMem x   => Laws.TableRow.ldVxMem x

/-- No row fixes an ignored bit (R96, R107). -/
theorem significantBits_and_row (i : Instr) : significantBits i &&& i.row.1 = i.row.1 := by
  cases i with
  | seReg | sneReg => exact (by decide : (0xFFF0 : Word) &&& 0xF000 = 0xF000)
  | shr | shl => exact (by decide : (0xFF0F : Word) &&& 0xF00F = 0xF00F)
  | _ => exact (BitVec.and_comm _ _).trans (and_FFFF _)

/-- The row sees only significant bits, and those are the canonical word's. -/
theorem and_row_of_decodeWord {w : Word} {i : Instr} (h : decodeWord w = .ok i) :
    w &&& i.row.1 = i.row.2 := by
  obtain ⟨-, bits⟩ := encode_of_decodeWord h
  rw [← encode_of_row i, bits, BitVec.and_assoc, significantBits_and_row]

/-! ### The rejected words -/

section
variable (w : Word)

theorem decodeFamily8_error_iff :
    (∃ e, decodeFamily8 w = .error e) ↔ w.toNat % 16 ∈ [0x8, 0x9, 0xA, 0xB, 0xC, 0xD, 0xF] := by
  have lt := (fieldN w).isLt
  rw [← fieldN_toNat, decodeFamily8]
  generalize (fieldN w).toNat = n at lt
  interval_cases n <;> simp

theorem decodeFamilyE_error_iff :
    (∃ e, decodeFamilyE w = .error e) ↔ w.toNat % 256 ∉ [0x9E, 0xA1] := by
  rw [← fieldNN_toNat, decodeFamilyE]
  split <;> simp_all

theorem decodeFamilyF_error_iff : (∃ e, decodeFamilyF w = .error e) ↔
    w.toNat % 256 ∉ [0x07, 0x0A, 0x15, 0x18, 0x1E, 0x29, 0x33, 0x55, 0x65] := by
  rw [← fieldNN_toNat, decodeFamilyF]
  split <;> simp_all

/-- Only the three families that are selected further can reject a word (R95, R98). -/
theorem decodeWord_error_iff : (∃ e, decodeWord w = .error e) ↔
    ((fieldOp w).toNat = 0x8 ∧ ∃ e, decodeFamily8 w = .error e) ∨
    ((fieldOp w).toNat = 0xE ∧ ∃ e, decodeFamilyE w = .error e) ∨
    ((fieldOp w).toNat = 0xF ∧ ∃ e, decodeFamilyF w = .error e) := by
  have lt := (fieldOp w).isLt
  rw [decodeWord]
  generalize (fieldOp w).toNat = op at lt
  interval_cases op <;> simp

/-- The high nibble needs no reduction: a word has 16 bits (R91). -/
theorem fieldOp_eq_div : (fieldOp w).toNat = w.toNat / 4096 := by
  have := w.isLt
  rw [fieldOp_toNat]
  omega

end

end Sys2Proof
end

section
open Sys2Proof Sys2Proof.Machine

/-- Settles O1: every format gives back the operands and the selector it was built from. -/
theorem decodeOfEncodeIsIdentity : Obligations.DecodeOfEncodeIsIdentity := fun _ wf => decodeWord_encode wf

/-- Settles O2: encoding a decoded instruction puts the fields of the word back, and the row's mask sees only
bits that are put back. -/
theorem decodedWordIsOfItsRow : Obligations.DecodedWordIsOfItsRow := by
  intro w i h
  obtain ⟨wf, bits⟩ := encode_of_decodeWord h
  exact ⟨wf, and_row_of_decodeWord h, bits⟩

/-- Settles O3: a rejection is one of the three selected families', and each rejects the selectors it does not
list. -/
theorem rejectedWordsAreTheUnrecognizedOnes : Obligations.RejectedWordsAreTheUnrecognizedOnes := by
  intro w
  rw [decodeWord_error_iff, decodeFamily8_error_iff, decodeFamilyE_error_iff, decodeFamilyF_error_iff,
    fieldOp_eq_div]

/-- Settles O4: closed words, by evaluating the decoder on each. -/
theorem wordsOfTheSpecDecode : Obligations.WordsOfTheSpecDecode := by
  unfold Obligations.WordsOfTheSpecDecode
  decide

end

section
/-! THEOREMS. What each instruction is as a chain of the model's operations, and what follows for all of them:
the parts they may write, the advance, the exceptional conditions (spec/10_state.md R20, R21, R33,
spec/30_encoding.md R101, spec/60_exceptions.md R225). -/

namespace Sys2Proof.Machine

section
variable (x y : Reg) (nn : Byte) (n : Nibble) (nnn : Addr12) (s : State)

theorem exec_sys : exec (.sys nnn) s = .next (s.unrecognized (immAddr nnn)) := rfl

theorem exec_ret : exec .ret s = execRet s := rfl

theorem exec_call : exec (.call nnn) s = execCall nnn s := rfl

theorem exec_seImm : exec (.seImm x nn) s = .next (s.skipIf (s.V x == nn)) := rfl

theorem exec_sneImm : exec (.sneImm x nn) s = .next (s.skipIf (s.V x != nn)) := rfl

theorem exec_seReg : exec (.seReg x y) s = .next (s.skipIf (s.V x == s.V y)) := rfl

theorem exec_sneReg : exec (.sneReg x y) s = .next (s.skipIf (s.V x != s.V y)) := rfl

theorem exec_addReg : exec (.addReg x y) s = .next (s.setVThenFlag x
    (trunc8 ((s.V x).toNat + (s.V y).toNat)) (carryFlag (s.V x) (s.V y))).advance := rfl

theorem exec_sub : exec (.sub x y) s =
    .next (s.setVThenFlag x (s.V x - s.V y) (notBorrowFlag (s.V x) (s.V y))).advance := rfl

theorem exec_subn : exec (.subn x y) s =
    .next (s.setVThenFlag x (s.V y - s.V x) (notBorrowFlag (s.V y) (s.V x))).advance := rfl

theorem exec_shr : exec (.shr x) s =
    .next (s.setVThenFlag x (s.V x >>> 1) (shiftRightFlag (s.V x))).advance := rfl

theorem exec_shl : exec (.shl x) s =
    .next (s.setVThenFlag x (s.V x <<< 1) (shiftLeftFlag (s.V x))).advance := rfl

theorem exec_rnd : exec (.rnd x nn) s = .next (s.setV x (s.input.rand &&& nn)).advance := rfl

theorem exec_drw : exec (.drw x y n) s = .next ((s.showFrame (s.spriteDraw x y n).fb).setFlag
    (collisionFlag (s.spriteDraw x y n).hit)).advance := rfl

theorem exec_skp : exec (.skp x) s = execSkp x s := rfl

theorem exec_sknp : exec (.sknp x) s = execSknp x s := rfl

theorem exec_ldVxDt : exec (.ldVxDt x) s = .next (s.setV x s.dt.val).advance := rfl

theorem exec_ldVxK : exec (.ldVxK x) s = .next (s.awaitKey x) := rfl

theorem exec_ldDtVx : exec (.ldDtVx x) s = .next (s.setDelay (s.V x)).advance := rfl

theorem exec_ldStVx : exec (.ldStVx x) s = .next (s.setSound (s.V x)).advance := rfl

theorem exec_ldF : exec (.ldF x) s = .next (s.setI (glyphAddr (s.V x))).advance := rfl

theorem exec_ldB : exec (.ldB x) s = .next (s.writeBytes s.i (bcdDigits (s.V x))).advance := rfl

theorem exec_ldMemVx : exec (.ldMemVx x) s = .next (s.writeBytes s.i (s.firstRegs x)).advance := rfl

theorem exec_ldVxMem : exec (.ldVxMem x) s = .next (s.loadRegs x s.i).advance := rfl

end

/-! ### Frames -/

namespace OnlyWrites

variable {regs : List Reg} {parts : List Part} {s t u : State}

/-- A write of `PC` adds nothing to a frame (R101). -/
theorem then_jump (h : OnlyWrites regs parts s t) (a : Word) : OnlyWrites regs parts s (t.jump a) :=
  h.trans ((jump a).mono (List.nil_subset _) (List.nil_subset _))

/-- A flag is written last and needs `VF` in the list besides (R141). -/
theorem then_setFlag (h : OnlyWrites regs parts s t) (flag : Byte) :
    OnlyWrites (regs ++ [VF]) parts s (t.setFlag flag) :=
  (h.mono (List.subset_append_left _ _) (List.Subset.refl _)).trans
    ((setFlag flag).mono (List.subset_append_right _ _) (List.nil_subset _))

end OnlyWrites

/-! ### The instructions with more than one outcome -/

section
variable {i : Instr} {s t : State}

theorem exec_ret_next (h : exec .ret s = .next t) :
    (s.stack = [] ∧ t = s.takeFault .stackUnderflow) ∨
    ∃ older a, s.stack = older ++ [a] ∧ t = s.pop.jump a := by
  rw [exec_ret] at h
  rcases execRet_cases (s := s) with ⟨empty, halts⟩ | ⟨older, a, stack, pops⟩
  · cases halts.symm.trans h
    exact .inl ⟨empty, rfl⟩
  · cases pops.symm.trans h
    exact .inr ⟨older, a, stack, rfl⟩

theorem exec_call_next {nnn : Addr12} (h : exec (.call nnn) s = .next t) :
    (Config.stackDepth ≤ s.sp ∧ t = s.takeFault .stackOverflow) ∨
    (s.sp < Config.stackDepth ∧ t = (s.push (trunc12 (s.pc + 2))).jump (immAddr nnn)) := by
  rw [exec_call] at h
  rcases execCall_cases (s := s) nnn with ⟨full, halts⟩ | ⟨room, pushes⟩
  · cases halts.symm.trans h
    exact .inl ⟨full, rfl⟩
  · cases pushes.symm.trans h
    exact .inr ⟨room, rfl⟩

theorem exec_skp_next {x : Reg} (h : exec (.skp x) s = .next t) : ∃ c, t = s.skipIf c := by
  rw [exec_skp] at h
  rcases execSkp_cases (s := s) x with ⟨-, refused, -⟩ | ⟨k, -, skips, -⟩
  · cases refused.symm.trans h
  · cases skips.symm.trans h
    exact ⟨_, rfl⟩

theorem exec_sknp_next {x : Reg} (h : exec (.sknp x) s = .next t) : ∃ c, t = s.skipIf c := by
  rw [exec_sknp] at h
  rcases execSkp_cases (s := s) x with ⟨-, -, refused⟩ | ⟨k, -, -, skips⟩
  · cases refused.symm.trans h
  · cases skips.symm.trans h
    exact ⟨_, rfl⟩

/-- An instruction completes, but for the two key skips on an index above 15 (R225, R232). -/
theorem exec_cases (i : Instr) (s : State) :
    (∃ t, exec i s = .next t) ∨
    ∃ x, (i = .skp x ∨ i = .sknp x) ∧ 15 < (s.V x).toNat ∧
      exec i s = .refused (.keyIndexOutOfRange s.pc (s.V x)) := by
  cases i with
  | ret =>
    rcases execRet_cases (s := s) with ⟨-, halts⟩ | ⟨_, _, -, pops⟩
    · exact .inl ⟨_, halts⟩
    · exact .inl ⟨_, pops⟩
  | call nnn =>
    rcases execCall_cases (s := s) nnn with ⟨-, halts⟩ | ⟨-, pushes⟩
    · exact .inl ⟨_, halts⟩
    · exact .inl ⟨_, pushes⟩
  | skp x =>
    rcases execSkp_cases (s := s) x with ⟨large, refused, -⟩ | ⟨_, -, skips, -⟩
    · exact .inr ⟨x, .inl rfl, large, refused⟩
    · exact .inl ⟨_, skips⟩
  | sknp x =>
    rcases execSkp_cases (s := s) x with ⟨large, -, refused⟩ | ⟨_, -, -, skips⟩
    · exact .inr ⟨x, .inr rfl, large, refused⟩
    · exact .inl ⟨_, skips⟩
  | _ => exact .inl ⟨_, rfl⟩

/-! ### What an instruction may have written -/

/-- The tables of R20, R21 and R33: one operation's frame for each instruction. -/
theorem exec_onlyWrites (h : exec i s = .next t) :
    OnlyWrites (destinations i ++ if writesFlag i then [VF] else []) (mayWrite i) s t := by
  cases i with
  | sys => cases h; exact .unrecognized _
  | cls => cases h; exact (OnlyWrites.showFrame _).then_advance
  | ret =>
    obtain ⟨-, rfl⟩ | ⟨_, a, -, rfl⟩ := exec_ret_next h
    · exact (OnlyWrites.takeFault _).mono (by simp) (by simp [mayWrite])
    · exact (OnlyWrites.pop.then_jump a).mono (by simp) (by simp [mayWrite])
  | call nnn =>
    obtain ⟨-, rfl⟩ | ⟨-, rfl⟩ := exec_call_next h
    · exact (OnlyWrites.takeFault _).mono (by simp) (by simp [mayWrite])
    · exact ((OnlyWrites.push _).then_jump _).mono (by simp) (by simp [mayWrite])
  | jp | jpV0 => cases h; exact .jump _
  | seImm | sneImm | seReg | sneReg => cases h; exact .skipIf _
  | skp => obtain ⟨c, rfl⟩ := exec_skp_next h; exact .skipIf c
  | sknp => obtain ⟨c, rfl⟩ := exec_sknp_next h; exact .skipIf c
  | ldImm | addImm | ldReg | orReg | andReg | xorReg | rnd | ldVxDt =>
    cases h; exact (OnlyWrites.setV _ _).then_advance
  | addReg | sub | shr | subn | shl => cases h; exact (OnlyWrites.setVThenFlag _ _ _).then_advance
  | ldI | ldF => cases h; exact (OnlyWrites.setI _).then_advance
  | addI => cases h; exact ((OnlyWrites.setI _).then_setFlag _).then_advance
  | drw => cases h; exact ((OnlyWrites.showFrame _).then_setFlag _).then_advance
  | ldVxK => cases h; exact .awaitKey _
  | ldDtVx => cases h; exact (OnlyWrites.setDelay _).then_advance
  | ldStVx => cases h; exact (OnlyWrites.setSound _).then_advance
  | ldB | ldMemVx => cases h; exact (OnlyWrites.writeBytes _ _).then_advance
  | ldVxMem =>
    cases h
    exact ((OnlyWrites.loadRegs _ _).mono (List.subset_append_left _ _) (List.Subset.refl _)).then_advance

/-- Only `RET` and `CALL` may halt (R225). -/
theorem eq_of_halt_mem_mayWrite (h : .halt ∈ mayWrite i) : i = .ret ∨ ∃ nnn, i = .call nnn := by
  cases i <;> simp [mayWrite] at h ⊢

/-- No instruction touches the schedule: a step uses it up after the instruction (log 1). -/
theorem inputs_notMem_mayWrite (i : Instr) : .inputs ∉ mayWrite i := by
  cases i <;> simp [mayWrite]

theorem halted_of_exec (h : exec i s = .next t) (running : s.halted = false) (halted : t.halted = true) :
    (i = .ret ∧ s.stack = []) ∨ (∃ nnn, i = .call nnn) ∧ Config.stackDepth ≤ s.sp := by
  have listed : .halt ∈ mayWrite i := by
    by_contra unlisted
    obtain ⟨same, -⟩ := (exec_onlyWrites h).halt unlisted
    simp [same, running] at halted
  obtain rfl | ⟨nnn, rfl⟩ := eq_of_halt_mem_mayWrite listed
  · obtain ⟨empty, -⟩ | ⟨_, a, -, rfl⟩ := exec_ret_next h
    · exact .inl ⟨rfl, empty⟩
    · simp [running] at halted
  · obtain ⟨full, -⟩ | ⟨-, rfl⟩ := exec_call_next h
    · exact .inr ⟨⟨nnn, rfl⟩, full⟩
    · simp [running] at halted

/-- An instruction reads, and leaves to the tick, one input: the step's (R38). -/
theorem input_of_exec (h : exec i s = .next t) : t.input = s.input := by
  obtain ⟨inputs, stepNo⟩ := (exec_onlyWrites h).inputs (inputs_notMem_mayWrite i)
  rw [State.input, State.input, inputs, stepNo]

/-! ### The advance -/

/-- Where the default advance leaves the program counter (R23, R101). -/
theorem advance_pc_toNat (s : State) : s.advance.pc.toNat = (s.pc.toNat + 2) % 4096 :=
  trunc12_add_two s.pc

/-- "Every other instruction" of R101 ends in the default advance from where it stood. -/
theorem exec_advances (s : State) (h : setsPc i = false) :
    ∃ u : State, exec i s = .next u.advance ∧ u.pc = s.pc := by
  cases i with
  | ret | jp | call | jpV0 | seImm | sneImm | seReg | sneReg | skp | sknp | ldVxK => cases h
  | ldB | ldMemVx => exact ⟨_, rfl, State.writeBytes_pc _ _ _⟩
  | _ => exact ⟨_, rfl, rfl⟩

end

end Sys2Proof.Machine
end

section
open Sys2Proof Sys2Proof.Machine

/-- Settles O48: the frame of each instruction is that of the operations it is made of. -/
theorem onlyListedInstructionsWriteEachPart : Obligations.OnlyListedInstructionsWriteEachPart :=
  fun _ _ _ h => exec_onlyWrites h

/-- Settles O50: an instruction completes or is a refused key skip, and by its frame it halts only where it is
`RET` or `CALL`. -/
theorem exceptionalConditionsAreTheListedOnes : Obligations.ExceptionalConditionsAreTheListedOnes := by
  intro i s
  refine ⟨?noFault, ?refused, fun t h running halted => halted_of_exec h running halted⟩
  case noFault =>
    intro f h
    obtain ⟨t, completes⟩ | ⟨x, -, -, refused⟩ := exec_cases i s
    · cases completes.symm.trans h
    · cases refused.symm.trans h
  case refused =>
    intro r h
    obtain ⟨t, completes⟩ | ⟨x, isSkip, large, -⟩ := exec_cases i s
    · cases completes.symm.trans h
    · exact ⟨x, isSkip, large⟩

/-- Settles O22: the default advance, from where the instruction stood. -/
theorem otherInstructionsAdvanceByTwo : Obligations.OtherInstructionsAdvanceByTwo := by
  intro i s h
  obtain ⟨u, completes, samePc⟩ := exec_advances s h
  refine ⟨u.advance, completes, ?_⟩
  rw [advance_pc_toNat, samePc]

/-- Settles O52: the first scheduled input stands in the state until the step's end, since no instruction
touches the schedule. -/
theorem stepReadsTheFirstScheduledInput : Obligations.StepReadsTheFirstScheduledInput := by
  intro s first rest scheduled
  have here : s.beginStep.input = first := input_of_cons scheduled
  refine ⟨input_of_cons scheduled, here, fun i t h => ⟨(input_of_exec h).trans here, ?_⟩⟩
  obtain ⟨inputs, -⟩ := (exec_onlyWrites h).inputs (inputs_notMem_mayWrite i)
  rw [State.finishStep_inputs, inputs, State.beginStep_inputs, scheduled, List.tail_cons]

end

section
/-! THEOREMS. The invariants of R41: each part of them for each stage of a step, and for the launch
(spec/10_state.md R41, spec/60_exceptions.md R220, spec/70_reset_and_hazards.md R261). -/

namespace Sys2Proof.Machine

section
variable {s t : State} {i : Instr}

/-! ### The end of a step -/

/-- A machine that has not halted ticks at the end of its step (R220). -/
theorem finishStep_of_running (h : s.halted = false) :
    s.finishStep = (s.tick s.input.elapsed).nextInput := by
  simp [State.finishStep, h]

/-- A machine that has halted does not (R228). -/
theorem finishStep_of_halted (h : s.halted = true) : s.finishStep = s.nextInput := by
  simp [State.finishStep, h]

theorem finishStep_dt_of_running (h : s.halted = false) :
    s.finishStep.dt = s.dt.tick s.input.elapsed := by
  rw [finishStep_of_running h]; rfl

theorem finishStep_st_of_running (h : s.halted = false) :
    s.finishStep.st = s.st.tick s.input.elapsed := by
  rw [finishStep_of_running h]; rfl

theorem finishStep_dt_of_halted (h : s.halted = true) : s.finishStep.dt = s.dt := by
  rw [finishStep_of_halted h]; rfl

theorem finishStep_st_of_halted (h : s.halted = true) : s.finishStep.st = s.st := by
  rw [finishStep_of_halted h]; rfl

/-! ### Each part of the invariants after an instruction -/

theorem exec_index_le (h : exec i s = .next t) (inv : s.i.toNat ≤ 0xFFF) : t.i.toNat ≤ 0xFFF := by
  cases i with
  | ldI nnn => cases h; exact immAddr_le nnn
  | addI => cases h; exact trunc12_le _
  | ldF => cases h; exact trunc12_le _
  | _ => rw [(exec_onlyWrites h).index (by simp [mayWrite])]; exact inv

/-- `PC` is masked, a 12-bit operand, a stack entry, or as it was. -/
theorem exec_pc_le (h : exec i s = .next t) (inv : s.pc.toNat ≤ 0xFFF)
    (entries : ∀ a ∈ s.stack, a.toNat ≤ 0xFFF) : t.pc.toNat ≤ 0xFFF := by
  cases i with
  | ret =>
    obtain ⟨-, rfl⟩ | ⟨older, a, stack, rfl⟩ := exec_ret_next h
    · exact inv
    · exact entries a (by simp [stack])
  | call nnn =>
    obtain ⟨-, rfl⟩ | ⟨-, rfl⟩ := exec_call_next h
    · exact inv
    · exact immAddr_le nnn
  | jp nnn => cases h; exact immAddr_le nnn
  | skp => obtain ⟨c, rfl⟩ := exec_skp_next h; exact trunc12_le _
  | sknp => obtain ⟨c, rfl⟩ := exec_sknp_next h; exact trunc12_le _
  | ldVxK => cases h; exact inv
  | _ => cases h; exact trunc12_le _

theorem exec_stack_inv (h : exec i s = .next t) (depth : s.sp ≤ Config.stackDepth)
    (entries : ∀ a ∈ s.stack, a.toNat ≤ 0xFFF) :
    t.sp ≤ Config.stackDepth ∧ ∀ a ∈ t.stack, a.toNat ≤ 0xFFF := by
  cases i with
  | ret =>
    obtain ⟨-, rfl⟩ | ⟨older, a, -, rfl⟩ := exec_ret_next h
    · exact ⟨depth, entries⟩
    · refine ⟨?_, fun b hb => entries b (List.dropLast_subset _ hb)⟩
      show s.stack.dropLast.length ≤ _
      rw [List.length_dropLast]
      exact (Nat.sub_le _ _).trans depth
  | call nnn =>
    obtain ⟨-, rfl⟩ | ⟨room, rfl⟩ := exec_call_next h
    · exact ⟨depth, entries⟩
    · refine ⟨?_, fun b hb => ?_⟩
      · show (s.stack ++ [_]).length ≤ _
        rw [List.length_append]
        exact room
      · obtain old | new := List.mem_append.1 hb
        · exact entries b old
        · rw [List.mem_singleton.1 new]
          exact trunc12_le _
  | _ =>
    have same := (exec_onlyWrites h).stack (by simp [mayWrite])
    rw [State.sp, same]
    exact ⟨depth, entries⟩

theorem exec_dt_inv (h : exec i s = .next t) (inv : s.dt.Inv) : t.dt.Inv := by
  cases i with
  | ldDtVx => cases h; exact ofByte_inv _
  | _ => rw [(exec_onlyWrites h).delay (by simp [mayWrite])]; exact inv

theorem exec_st_inv (h : exec i s = .next t) (inv : s.st.Inv) : t.st.Inv := by
  cases i with
  | ldStVx => cases h; exact ofByte_inv _
  | _ => rw [(exec_onlyWrites h).sound (by simp [mayWrite])]; exact inv

/-- Only the two stores change the list that holds the memory, through `State.writeBytes`. -/
theorem exec_mem_wf (h : exec i s = .next t) (inv : s.mem.wf) : t.mem.wf := by
  cases i with
  | ldB | ldMemVx => cases h; exact State.wf_writeBytes _ inv _ _
  | ret => obtain ⟨-, rfl⟩ | ⟨_, _, -, rfl⟩ := exec_ret_next h <;> exact inv
  | call => obtain ⟨-, rfl⟩ | ⟨-, rfl⟩ := exec_call_next h <;> exact inv
  | skp => obtain ⟨c, rfl⟩ := exec_skp_next h; exact inv
  | sknp => obtain ⟨c, rfl⟩ := exec_sknp_next h; exact inv
  | _ => cases h; exact inv

theorem exec_cause (h : exec i s = .next t) (inv : s.halted = s.fault.isSome) :
    t.halted = t.fault.isSome := by
  cases i with
  | ret =>
    obtain ⟨-, rfl⟩ | ⟨_, _, -, rfl⟩ := exec_ret_next h
    · rfl
    · exact inv
  | call =>
    obtain ⟨-, rfl⟩ | ⟨-, rfl⟩ := exec_call_next h
    · rfl
    · exact inv
  | _ =>
    obtain ⟨halted, fault⟩ := (exec_onlyWrites h).halt (by simp [mayWrite])
    rw [halted, fault]
    exact inv

/-- Only `LD Vx, K` starts a wait, and it leaves `PC` on itself (R203). -/
theorem exec_parked (h : exec i s = .next t) (awake : s.wait = false)
    (decoded : decodeWord s.fetchWord = .ok i) (waits : t.wait = true) :
    decodeWord t.fetchWord = .ok (.ldVxK t.waitX) := by
  cases i with
  | ldVxK => cases h; exact decoded
  | _ =>
    obtain ⟨same, -, -⟩ := (exec_onlyWrites h).waiting (by simp [mayWrite])
    rw [same, awake] at waits
    cases waits

/-! ### The invariants after each stage of a step -/

theorem exec_inv (inv : s.Inv) (awake : s.wait = false) (decoded : decodeWord s.fetchWord = .ok i)
    (h : exec i s = .next t) : t.Inv where
  index   := exec_index_le h inv.index
  counter := exec_pc_le h inv.counter inv.entries
  depth   := (exec_stack_inv h inv.depth inv.entries).1
  entries := (exec_stack_inv h inv.depth inv.entries).2
  delay   := exec_dt_inv h inv.delay
  sound   := exec_st_inv h inv.sound
  memory  := exec_mem_wf h inv.memory
  cause   := exec_cause h inv.cause
  parked  := exec_parked h awake decoded

theorem beginStep_inv (inv : s.Inv) : s.beginStep.Inv :=
  { inv with }

theorem finishStep_inv (inv : s.Inv) : s.finishStep.Inv := by
  cases halted : s.halted with
  | true =>
    rw [finishStep_of_halted halted]
    exact { inv with }
  | false =>
    rw [finishStep_of_running halted]
    exact { inv with delay := tick_inv inv.delay _, sound := tick_inv inv.sound _ }

/-- A poll that keeps waiting leaves `PC` on the waiting instruction (R204). -/
theorem pollKeys_inv (inv : s.Inv) : s.pollKeys.Inv := by
  obtain ⟨-, keeps⟩ | ⟨k, -, -, ends⟩ := s.pollKeys_cases
  · rw [keeps]
    exact { inv with }
  · rw [ends]
    exact { inv with counter := trunc12_le _, parked := nofun }

theorem unrecognized_inv (inv : s.Inv) (awake : s.wait = false) (w : Word) : (s.unrecognized w).Inv :=
  { inv with counter := trunc12_le _, parked := fun waits => by cases awake.symm.trans waits }

theorem step_inv (inv : s.Inv) (h : step s = .next t) : t.Inv := by
  obtain ⟨-, rfl⟩ | ⟨-, -, rfl⟩ | ⟨-, awake, i, u, decoded, done, rfl⟩ | ⟨-, awake, e, -, rfl⟩ :=
    step_cases h
  · exact inv
  · exact finishStep_inv (pollKeys_inv (beginStep_inv inv))
  · exact finishStep_inv (exec_inv (beginStep_inv inv) awake decoded done)
  · exact finishStep_inv (unrecognized_inv (beginStep_inv inv) awake _)

/-! ### Reset and launch -/

theorem reset_inv : State.reset.Inv :=
  ⟨by decide, by decide, by decide, nofun, ofByte_inv _, ofByte_inv _, Memory.wf_nil, rfl, nofun⟩

/-- A machine that is not waiting may have any bytes written (R262). -/
theorem writeBytes_inv (inv : s.Inv) (awake : s.wait = false) (a : Word) (bs : List Byte) :
    (s.writeBytes a bs).Inv where
  index   := by simpa using inv.index
  counter := by simpa using inv.counter
  depth   := by simpa using inv.depth
  entries := by simpa using inv.entries
  delay   := by simpa using inv.delay
  sound   := by simpa using inv.sound
  memory  := s.wf_writeBytes inv.memory a bs
  cause   := by simpa using inv.cause
  parked  := by simp [awake]

theorem setTimers_inv (inv : s.Inv) (delay sound : Byte) : ((s.setDelay delay).setSound sound).Inv :=
  { inv with delay := ofByte_inv _, sound := ofByte_inv _ }

theorem launched_inv (c : LaunchConfig) (image : List Byte) : (launched c image).Inv := by
  have font : (fontLoaded c).Inv := writeBytes_inv (setTimers_inv reset_inv _ _) rfl _ _
  exact writeBytes_inv font (by simp [fontLoaded, State.reset]) _ _

theorem eq_launched {c : LaunchConfig} {image : List Byte} (h : launch c image = .ok s) :
    s = launched c image := by
  obtain fits | large := le_or_gt image.length Config.maxImage
  · cases (launch_eq_launched c image fits).symm.trans h
    rfl
  · cases (launch_of_gt c large).symm.trans h

end

end Sys2Proof.Machine
end

section
open Sys2Proof Sys2Proof.Machine

/-- Settles O53: a step is a poll, an instruction or a report between `beginStep` and `finishStep`, each of
which keeps the invariants; a halted machine stays as it is. -/
theorem stepKeepsTheInvariants : Obligations.StepKeepsTheInvariants := fun _ _ inv h => step_inv inv h

/-- Settles O54: `PC` is in range, the stack and the memory list nothing, and both timers are set by
`Timer.ofByte`. -/
theorem resetMeetsTheInvariants : Obligations.ResetMeetsTheInvariants := reset_inv

/-- Settles O59: the launched machine is reset with its timers set and bytes written, none of which breaks an
invariant of a machine that does not wait. -/
theorem launchMeetsTheInvariants : Obligations.LaunchMeetsTheInvariants := by
  intro c image s h
  rw [eq_launched h]
  exact launched_inv c image

end

section
/-! THEOREMS. The cycle around an instruction: the fetch, what a step adds, the reports, the key poll and the
finished program (spec/60_exceptions.md R220, spec/44_keys_timers_random.md R204,
spec/70_reset_and_hazards.md R266). -/

namespace Sys2Proof.Machine

/-! ### Frames of what a step does around the instruction -/

namespace OnlyWrites

variable {regs : List Reg} {parts : List Part} {s t u : State}

theorem beginStep : OnlyWrites [] [.report] s s.beginStep :=
  of_fields (by simp) (by simp) (by simp) (by simp) (by simp) (by simp) (by simp) (by simp) (by simp)
    (by simp) (by simp)

theorem nextInput : OnlyWrites [] [.inputs] s s.nextInput :=
  of_fields (by simp) (by simp) (by simp) (by simp) (by simp) (by simp) (by simp) (by simp) (by simp)
    (by simp) (by simp)

theorem keepKeys : OnlyWrites [] [.waiting] s s.keepKeys :=
  of_fields (by simp) (by simp) (by simp) (by simp) (by simp) (by simp) (by simp) (by simp) (by simp)
    (by simp) (by simp)

theorem endWait : OnlyWrites [] [.waiting] s s.endWait :=
  of_fields (by simp) (by simp) (by simp) (by simp) (by simp) (by simp) (by simp) (by simp) (by simp)
    (by simp) (by simp)

/-- Whatever a step does between `beginStep` and `finishStep`, the step adds the report, the timers and the
inputs to what it may write. -/
theorem step (h : OnlyWrites regs parts s.beginStep u) :
    OnlyWrites regs (parts ++ [.delay, .sound, .report, .inputs]) s u.finishStep :=
  (beginStep.mono (List.nil_subset _) (by simp)).trans <|
    (h.mono (List.Subset.refl _) (by simp)).trans (finishStep.mono (List.nil_subset _) (by simp))

/-- A step that halts adds the report and the inputs only (R228). -/
theorem haltingStep (h : OnlyWrites regs parts s.beginStep u) (halted : u.halted = true) :
    OnlyWrites regs (parts ++ [.report, .inputs]) s u.finishStep := by
  rw [finishStep_of_halted halted]
  exact (beginStep.mono (List.nil_subset _) (by simp)).trans <|
    (h.mono (List.Subset.refl _) (by simp)).trans (nextInput.mono (List.nil_subset _) (by simp))

end OnlyWrites

section
variable {s t : State} {i : Instr}

/-- The effective addresses of the two fetched bytes, as numbers (R61, R63). -/
theorem fetchWord_toNat (s : State) : s.fetchWord.toNat =
    (s.mem.read (s.pc.toNat % 4096)).toNat * 256 + (s.mem.read ((s.pc.toNat + 1) % 4096)).toNat := by
  rw [State.fetchWord, wordOfBytes_toNat, State.readByte, State.readByte, ea_eq, ea_succ]

/-- A running machine whose instruction completes goes to that state with the step's end added. -/
theorem step_of_exec (running : s.running) (decoded : decodeWord s.fetchWord = .ok i)
    (done : exec i s.beginStep = .next t) : step s = .next t.finishStep := by
  obtain ⟨halted, wait⟩ := running
  rw [step_of_decoded halted wait decoded, done]

/-- A step whose instruction takes a fault halts with the cause recorded and does not tick (R220, R228). -/
theorem step_of_takeFault {cause : Word → Fault} (running : s.running)
    (decoded : decodeWord s.fetchWord = .ok i)
    (faults : exec i s.beginStep = .next (s.beginStep.takeFault cause)) :
    ∃ t, step s = .next t ∧ t.halted = true ∧ t.fault = some (cause s.pc) ∧ t.pc = s.pc ∧
      OnlyWrites [] [.halt, .report, .inputs] s t :=
  ⟨_, step_of_exec running decoded faults, by simp, by simp, by simp,
    (OnlyWrites.takeFault cause).haltingStep rfl⟩

/-! ### The poll -/

/-- A poll that finds a newly pressed key stores the least one and ends the wait (R204). -/
theorem pollKeys_of_least {k : Fin 16} (new : s.keyPressed k = true ∧ s.prevKeys[k.val] = false)
    (least : ∀ j < k, ¬(s.keyPressed j = true ∧ s.prevKeys[j.val] = false)) :
    s.pollKeys = (s.setV s.waitX (BitVec.ofNat 8 k.val)).endWait.advance := by
  obtain ⟨none, -⟩ | ⟨m, newM, leastM, ends⟩ := s.pollKeys_cases
  · exact absurd new (none k)
  · have same : m = k := le_antisymm (leastM k new) (not_lt.1 fun lt => least m lt newM)
    rw [ends, same]

/-- A poll that finds none keeps the snapshot (R204). -/
theorem pollKeys_of_none (none : ∀ k : Fin 16, ¬(s.keyPressed k = true ∧ s.prevKeys[k.val] = false)) :
    s.pollKeys = s.keepKeys := by
  obtain ⟨-, keeps⟩ | ⟨k, new, -, -⟩ := s.pollKeys_cases
  · exact keeps
  · exact absurd new (none k)

/-! ### The finished program -/

/-- A program counter in range survives the 12-bit operand of the jump to it. -/
theorem immAddr_pc (h : s.pc.toNat ≤ 0xFFF) : immAddr (s.pc.setWidth 12) = s.pc := by
  apply BitVec.eq_of_toNat_eq
  rw [immAddr_toNat, BitVec.toNat_setWidth]
  omega

/-- The jump of a finished program to its own address changes nothing (R266). -/
theorem step_of_finished (h : s.finished) : step s = .next s.beginStep.finishStep := by
  obtain ⟨running, inRange, decoded⟩ := h
  have jumps : exec (.jp (s.pc.setWidth 12)) s.beginStep = .next s.beginStep := by
    rw [exec_jp, immAddr_pc inRange]
    rfl
  exact step_of_exec running decoded jumps

end

end Sys2Proof.Machine
end

section
open Sys2Proof Sys2Proof.Machine

/-- Settles O5: the two bytes are concatenated high half first, at addresses that are masked. -/
theorem fetchIsBigEndianAndWraps : Obligations.FetchIsBigEndianAndWraps := fetchWord_toNat

/-- Settles O6: the third case of R220. -/
theorem stepRunsTheDecodedInstruction : Obligations.StepRunsTheDecodedInstruction := by
  intro s i running decoded
  obtain ⟨halted, wait⟩ := running
  exact step_of_decoded halted wait decoded

/-- Settles O7: `finishStep` is the tick, unless halted, and then the use of the input. -/
theorem finishingAStepTicksUnlessHalted : Obligations.FinishingAStepTicksUnlessHalted := fun s =>
  ⟨.finishStep, s.finishStep_pc, s.finishStep_inputs, s.finishStep_stepNo,
    fun running => ⟨finishStep_dt_of_running running, finishStep_st_of_running running⟩,
    fun halted => ⟨finishStep_dt_of_halted halted, finishStep_st_of_halted halted⟩⟩

/-- Settles O8: the step is `State.unrecognized` between `beginStep` and `finishStep`. -/
theorem unrecognizedWordIsReportedAndSkipped : Obligations.UnrecognizedWordIsReportedAndSkipped := by
  intro s e running rejected
  obtain ⟨halted, wait⟩ := running
  refine ⟨_, step_of_unrecognized halted wait rejected, ?report, ?pc, finishStep_dt_of_running halted,
    finishStep_st_of_running halted,
    (OnlyWrites.unrecognized _).step.mono (List.Subset.refl _) (by simp)⟩
  case report => rw [State.finishStep_report]; rfl
  case pc => rw [State.finishStep_pc]; exact trunc12_add_two s.pc

/-- Settles O9: the first case of a step. -/
theorem haltedMachineStaysAsItIs : Obligations.HaltedMachineStaysAsItIs := 
  fun _ halted => step_of_halted halted

/-- Settles O10: the poll is one register write, the end of the wait and the default advance. -/
theorem pollStoresLowestNewKey : Obligations.PollStoresLowestNewKey := by
  intro s k halted wait pressed unpressed least
  have poll := pollKeys_of_least (s := s.beginStep) ⟨pressed, unpressed⟩ least
  have frame : OnlyWrites [s.waitX] [.waiting] s.beginStep s.beginStep.pollKeys := by
    rw [poll]
    exact (((OnlyWrites.setV _ _).mono (List.Subset.refl _) (List.nil_subset _)).trans
      (OnlyWrites.endWait.mono (List.nil_subset _) (List.Subset.refl _))).then_advance
  have running : s.beginStep.pollKeys.halted = false := by rw [State.pollKeys_halted]; exact halted
  refine ⟨_, step_of_wait halted wait, ?key, ?awake, ?pc, ?waitX, ?prevKeys, ?dt, ?st, ?report,
    frame.step⟩
  case key =>
    have stored : s.beginStep.pollKeys.V s.waitX = BitVec.ofNat 8 k.val := by
      rw [poll]
      exact State.V_setV_self _ _ _
    rw [State.finishStep_V, stored, BitVec.toNat_ofNat]
    omega
  case awake => rw [State.finishStep_wait, poll]; rfl
  case pc => rw [State.finishStep_pc, poll]; exact trunc12_add_two s.pc
  case waitX => rw [State.finishStep_waitX, poll]; rfl
  case prevKeys => rw [State.finishStep_prevKeys, poll]; rfl
  case dt => rw [finishStep_dt_of_running running]; simp
  case st => rw [finishStep_st_of_running running]; simp
  case report => simp

/-- Settles O11: the poll is `State.keepKeys`. -/
theorem pollWithoutNewKeyKeepsWaiting : Obligations.PollWithoutNewKeyKeepsWaiting := by
  intro s halted wait none
  have poll := pollKeys_of_none (s := s.beginStep) none
  refine ⟨s.beginStep.keepKeys.finishStep, by rw [step_of_wait halted wait, poll], ?wait, ?waitX,
    ?prevKeys, ?pc, finishStep_dt_of_running halted, finishStep_st_of_running halted, ?report,
    OnlyWrites.keepKeys.step⟩
  case wait => simpa using wait
  all_goals simp

/-- Settles O12: of the four kinds of step only a poll that finds a new key leaves the wait. -/
theorem onlyANewKeyEndsAWait : Obligations.OnlyANewKeyEndsAWait := by
  intro s t wait h awake
  obtain ⟨-, rfl⟩ | ⟨-, -, rfl⟩ | ⟨-, notWaiting, -⟩ | ⟨-, notWaiting, -⟩ := step_cases h
  · cases wait.symm.trans awake
  · obtain ⟨-, keeps⟩ | ⟨k, new, -, -⟩ := s.beginStep.pollKeys_cases
    · rw [State.finishStep_wait, keeps] at awake
      cases wait.symm.trans awake
    · exact ⟨k, new⟩
  · cases wait.symm.trans notWaiting
  · cases wait.symm.trans notWaiting

/-- Settles O16: the halted state that `RET` and `CALL` leave is not ticked. -/
theorem faultingStepDoesNotTick : Obligations.FaultingStepDoesNotTick := by
  intro s running
  refine ⟨fun decoded empty => step_of_takeFault running decoded ?ret,
    fun nnn decoded full => step_of_takeFault running decoded ?call⟩
  case ret =>
    obtain ⟨-, faults⟩ | ⟨older, a, stack, -⟩ := execRet_cases (s := s.beginStep)
    · exact faults
    · simp [empty] at stack
  case call =>
    obtain ⟨-, faults⟩ | ⟨room, -⟩ := execCall_cases (s := s.beginStep) nnn
    · exact faults
    · exact absurd full room.ne

/-- Settles O60: the instruction changes nothing, so the step is its beginning and its end. -/
theorem finishedProgramStaysFinished : Obligations.FinishedProgramStaysFinished := by
  intro s finished
  obtain ⟨⟨halted, wait⟩, inRange, decoded⟩ := finished
  refine ⟨_, step_of_finished ⟨⟨halted, wait⟩, inRange, decoded⟩, ?finished, ?pc,
    finishStep_dt_of_running halted, finishStep_st_of_running halted, ?report,
    (OnlyWrites.refl [] [] s.beginStep).step⟩
  case finished =>
    refine ⟨⟨?_, ?_⟩, ?_, ?_⟩
    · simpa using halted
    · simpa using wait
    · simpa using inRange
    · simpa using decoded
  case pc => simp
  case report => simp

end

section
/-! THEOREMS. The skips, the call and return, the flag writers and the other instructions that write one
register or one part (spec/40_flow.md, spec/41_alu.md, spec/42_index_memory.md,
spec/44_keys_timers_random.md). -/

namespace Sys2Proof.Machine

section
variable {i : Instr} {s : State} {x : Reg} {c : Bool} {b flag : Byte}

/-! ### Skips -/

/-- An instruction that is one skip moves `PC` by 4 when its condition holds, else by 2 (R101). -/
theorem exec_skipIf {P : Prop} [Decidable P] (h : exec i s = .next (s.skipIf c)) (cond : c = true ↔ P) :
    ∃ t, exec i s = .next t ∧ OnlyWrites [] [] s t ∧
      t.pc.toNat = (s.pc.toNat + if P then 4 else 2) % 4096 := by
  refine ⟨_, h, .skipIf c, ?_⟩
  rw [skipIf_pc_toNat]
  simp only [cond]

/-- The same where the condition is the opposite one. -/
theorem exec_skipUnless {P : Prop} [Decidable P] (h : exec i s = .next (s.skipIf c)) (cond : c = true ↔ ¬P) :
    ∃ t, exec i s = .next t ∧ OnlyWrites [] [] s t ∧
      t.pc.toNat = (s.pc.toNat + if P then 2 else 4) % 4096 := by
  simpa only [ite_not] using exec_skipIf h cond

/-- `SKP` and `SKNP` on a key that exists (R201, R202). -/
theorem exec_keySkips {k : Fin 16} (h : (s.V x).toNat = k.val) :
    exec (.skp x) s = .next (s.skipIf (s.keyPressed k)) ∧
    exec (.sknp x) s = .next (s.skipIf (!s.keyPressed k)) := by
  rw [exec_skp, exec_sknp]
  obtain ⟨large, -⟩ | ⟨m, named, skips⟩ := execSkp_cases (s := s) x
  · have := k.isLt
    omega
  · have same : m = k := Fin.ext (named.symm.trans h)
    exact same ▸ skips

/-! ### Flag writers -/

/-- The flag is written last, so it is what `VF` holds in the end (R141). -/
theorem setFlag_advance_V_VF (u : State) (flag : Byte) : (u.setFlag flag).advance.V VF = flag := by
  rw [State.advance_V, State.V_setFlag, if_pos rfl]

/-- The flag stands for every destination; the result is lost when that is `VF` (R141). -/
theorem exec_setVThenFlag_advance (h : exec i s = .next (s.setVThenFlag x b flag).advance) :
    ∃ t, exec i s = .next t ∧ t.V VF = flag ∧ (x ≠ VF → t.V x = b) ∧ OnlyWrites [x, VF] [] s t := by
  refine ⟨_, h, setFlag_advance_V_VF _ flag, fun ne => ?_, (OnlyWrites.setVThenFlag x b flag).then_advance⟩
  rw [State.advance_V, State.V_setVThenFlag, if_neg ne, if_pos rfl]

theorem carryFlag_toNat (a b : Byte) : (carryFlag a b).toNat = if a.toNat + b.toNat > 255 then 1 else 0 := by
  rw [carryFlag, flagByte_toNat]
  exact if_congr decide_eq_true_iff rfl rfl

theorem notBorrowFlag_toNat (a b : Byte) :
    (notBorrowFlag a b).toNat = if a.toNat ≥ b.toNat then 1 else 0 := by
  rw [notBorrowFlag, flagByte_toNat]
  exact if_congr decide_eq_true_iff rfl rfl

theorem shiftRightFlag_toNat (a : Byte) : (shiftRightFlag a).toNat = a.toNat % 2 := by
  rw [shiftRightFlag, flagByte_toNat, BitVec.getLsbD, Nat.testBit_zero]
  simp only [decide_eq_true_eq]
  split <;> omega

theorem shiftLeftFlag_toNat (a : Byte) : (shiftLeftFlag a).toNat = a.toNat / 128 := by
  have := a.isLt
  rw [shiftLeftFlag, flagByte_toNat, BitVec.getLsbD, Nat.testBit_eq_decide_div_mod_eq]
  simp only [decide_eq_true_eq]
  split <;> omega

/-- An 8-bit difference is the difference modulo 256 (R140). -/
theorem toNat_sub_emod (a b : Byte) : ((a - b).toNat : Int) = (a.toNat - b.toNat : Int) % 256 := by
  have := a.isLt
  have := b.isLt
  rw [BitVec.toNat_sub]
  omega

/-- Every flag writer ends in the write of a flag and the default advance (R21, R141). -/
theorem exec_setFlag_advance (s : State) (h : writesFlag i = true) :
    ∃ (u : State) (c : Bool), exec i s = .next (u.setFlag (flagByte c)).advance := by
  cases i with
  | addReg | sub | shr | subn | shl | drw | addI => exact ⟨_, _, rfl⟩
  | _ => cases h

end

end Sys2Proof.Machine
end

section
open Sys2Proof Sys2Proof.Machine

/-- Settles O13: `SYS` is `State.unrecognized` of its own word. -/
theorem sysReportsAndAdvances : Obligations.SysReportsAndAdvances := fun nnn s =>
  ⟨_, exec_sys nnn s, ⟨_, rfl, rfl, immAddr_toNat nnn⟩, trunc12_add_two s.pc, .unrecognized _⟩

/-- Settles O14: the second case of `execRet_cases`. -/
theorem returnPopsIntoPc : Obligations.ReturnPopsIntoPc := by
  intro s older a stack
  obtain ⟨empty, -⟩ | ⟨st, b, top, pops⟩ := execRet_cases (s := s)
  · simp [empty] at stack
  · obtain ⟨rfl, sameTop⟩ := List.append_inj' (top.symm.trans stack) rfl
    cases sameTop
    refine ⟨_, pops, rfl, ?_, OnlyWrites.pop.then_jump _⟩
    show s.stack.dropLast = st
    rw [stack, List.dropLast_concat]

/-- Settles O15: the first case of `execRet_cases`. -/
theorem returnOnEmptyStackHalts : Obligations.ReturnOnEmptyStackHalts := by
  intro s empty
  obtain ⟨-, faults⟩ | ⟨st, a, stack, -⟩ := execRet_cases (s := s)
  · exact ⟨_, faults, rfl, rfl, rfl, .takeFault _⟩
  · simp [empty] at stack

/-- Settles O18: the second case of `execCall_cases`. -/
theorem callPushesReturnAddress : Obligations.CallPushesReturnAddress := by
  intro nnn s room
  obtain ⟨full, -⟩ | ⟨-, pushes⟩ := execCall_cases (s := s) nnn
  · exact absurd room (not_lt.2 full)
  · exact ⟨_, _, pushes, rfl, trunc12_add_two s.pc, immAddr_toNat nnn, (OnlyWrites.push _).then_jump _⟩

/-- Settles O19: the first case of `execCall_cases`. -/
theorem callOnFullStackHalts : Obligations.CallOnFullStackHalts := by
  intro nnn s full
  obtain ⟨-, faults⟩ | ⟨room, -⟩ := execCall_cases (s := s) nnn
  · exact ⟨_, faults, rfl, rfl, rfl, .takeFault _⟩
  · exact absurd full room.ne

/-- Settles O20: one skip each, on `==` and on `!=`. -/
theorem skipsOnImmediate : Obligations.SkipsOnImmediate := fun x nn s =>
  ⟨exec_skipIf (exec_seImm x nn s) beq_iff_eq, exec_skipUnless (exec_sneImm x nn s) bne_iff_ne⟩

/-- Settles O21: one skip each, on `==` and on `!=`. -/
theorem skipsOnRegisters : Obligations.SkipsOnRegisters := fun x y s =>
  ⟨exec_skipIf (exec_seReg x y s) beq_iff_eq, exec_skipUnless (exec_sneReg x y s) bne_iff_ne⟩

/-- Settles O26: the carry is the comparison of the sum with 255, the result its cut to 8 bits. -/
theorem addRegistersSetsCarry : Obligations.AddRegistersSetsCarry := by
  intro x y s
  obtain ⟨t, done, flag, sum, frame⟩ := exec_setVThenFlag_advance (exec_addReg x y s)
  exact ⟨t, done, by rw [flag, carryFlag_toNat], fun ne => by rw [sum ne, trunc8_toNat], frame⟩

/-- Settles O27: the two subtractions are one with the operands exchanged. -/
theorem subtractionsSetNotBorrow : Obligations.SubtractionsSetNotBorrow := by
  intro x y s
  constructor
  · obtain ⟨t, done, flag, difference, frame⟩ := exec_setVThenFlag_advance (exec_sub x y s)
    exact ⟨t, done, by rw [flag, notBorrowFlag_toNat], fun ne => by rw [difference ne, toNat_sub_emod],
      frame⟩
  · obtain ⟨t, done, flag, difference, frame⟩ := exec_setVThenFlag_advance (exec_subn x y s)
    exact ⟨t, done, by rw [flag, notBorrowFlag_toNat], fun ne => by rw [difference ne, toNat_sub_emod],
      frame⟩

/-- Settles O28: a shift by one is a division or a product by two, the flag the old bit 0 or 7. -/
theorem shiftsMoveOneBitIntoFlag : Obligations.ShiftsMoveOneBitIntoFlag := by
  intro x s
  constructor
  · obtain ⟨t, done, flag, half, frame⟩ := exec_setVThenFlag_advance (exec_shr x s)
    refine ⟨t, done, by rw [flag, shiftRightFlag_toNat], fun ne => ?_, frame⟩
    rw [half ne, BitVec.toNat_ushiftRight, Nat.shiftRight_eq_div_pow, Nat.pow_one]
  · obtain ⟨t, done, flag, double, frame⟩ := exec_setVThenFlag_advance (exec_shl x s)
    refine ⟨t, done, by rw [flag, shiftLeftFlag_toNat], fun ne => ?_, frame⟩
    rw [double ne, BitVec.toNat_shiftLeft, Nat.shiftLeft_eq, Nat.pow_one, Nat.mul_comm]

/-- Settles O49: all seven end in a flag write, and a flag is 0 or 1. -/
theorem flagWritersLeaveZeroOrOne : Obligations.FlagWritersLeaveZeroOrOne := by
  intro i s h
  obtain ⟨u, c, done⟩ := exec_setFlag_advance s h
  refine ⟨_, done, ?_⟩
  rw [setFlag_advance_V_VF]
  exact (flagByte_eq c).symm

/-- Settles O31: five times an 8-bit value is below the mask. -/
theorem glyphAddressIsFiveTimesVx : Obligations.GlyphAddressIsFiveTimesVx := fun x s =>
  ⟨_, exec_ldF x s, glyphAddr_toNat (s.V x), (OnlyWrites.setI _).then_advance⟩

/-- Settles O39: the key is the one the value of `Vx` names. -/
theorem keySkipsReadTheSnapshot : Obligations.KeySkipsReadTheSnapshot := by
  intro x s k named
  obtain ⟨skp, sknp⟩ := exec_keySkips named
  exact ⟨exec_skipIf skp Iff.rfl, exec_skipUnless sknp (by simp [State.keyPressed])⟩

/-- Settles O40: the first case of `execSkp_cases`. -/
theorem keySkipsRefuseLargeIndex : Obligations.KeySkipsRefuseLargeIndex := by
  intro x s large
  obtain ⟨-, refused⟩ | ⟨k, named, -⟩ := execSkp_cases (s := s) x
  · exact refused
  · have := k.isLt
    omega

/-- Settles O41: `LD Vx, K` is `State.awaitKey`. -/
theorem waitForKeyParks : Obligations.WaitForKeyParks := fun x s =>
  ⟨_, exec_ldVxK x s, rfl, rfl, rfl, rfl, .awaitKey x⟩

/-- Settles O42: one register write, of the observable value. -/
theorem readDelayTimer : Obligations.ReadDelayTimer := fun x s =>
  ⟨_, exec_ldVxDt x s, State.V_setV_self s x _, trunc12_add_two s.pc, (OnlyWrites.setV x _).then_advance⟩

/-- Settles O43: `Timer.ofByte` sets the accumulator and the value together. -/
theorem setTimersToVx : Obligations.SetTimersToVx := fun x s =>
  ⟨⟨_, exec_ldDtVx x s, rfl, rfl, trunc12_add_two s.pc, (OnlyWrites.setDelay _).then_advance⟩,
    ⟨_, exec_ldStVx x s, rfl, rfl, trunc12_add_two s.pc, (OnlyWrites.setSound _).then_advance⟩⟩

/-- Settles O44: one register write, of the masked byte; what the mask clears stays clear. -/
theorem randomIsMaskedInput : Obligations.RandomIsMaskedInput := by
  intro x nn s
  have value : (s.setV x (s.input.rand &&& nn)).advance.V x = s.input.rand &&& nn := State.V_setV_self s x _
  refine ⟨_, exec_rnd x nn s, value, ?_, trunc12_add_two s.pc, (OnlyWrites.setV x _).then_advance⟩
  rw [value, BitVec.and_assoc, BitVec.and_not_self]
  exact BitVec.and_zero

end

section
/-! THEOREMS. The memory transfers through `I` (spec/42_index_memory.md R164 to R167, spec/20_memory.md
R74). -/

namespace Sys2Proof.Machine

section
variable (s : State) (a : Word)

/-- Byte `k` of a multi-byte write stands at `a + k` modulo 4096 (R61, R62). -/
theorem mem_read_writeBytes_mod (bs : List Byte) (hlen : bs.length ≤ Config.memSize) {k : Nat}
    (hk : k < bs.length) : (s.writeBytes a bs).mem.read ((a.toNat + k) % 4096) = bs[k] := by
  rw [State.read_mod_eq]
  exact s.readByte_writeBytes a bs hlen k hk

/-- A digit of a register value is small enough for its byte (R164). -/
theorem toNat_mem_read_bcd {b : Byte} {k d : Nat} (hk : k < (bcdDigits b).length)
    (digit : (bcdDigits b)[k] = trunc8 d) (small : d < 256) :
    ((s.writeBytes a (bcdDigits b)).mem.read ((a.toNat + k) % 4096)).toNat = d := by
  have three : (bcdDigits b).length ≤ Config.memSize := Nat.le_add_right 3 4093
  rw [mem_read_writeBytes_mod s a _ three hk, digit, trunc8_toNat, Nat.mod_eq_of_lt small]

theorem length_firstRegs_le (x : Reg) : (s.firstRegs x).length ≤ Config.memSize := by
  have := x.isLt
  rw [State.length_firstRegs, Config.memSize]
  omega

/-- After a dump register `k` is at the `k`-th address (R165). -/
theorem readByte_dump {x k : Reg} (h : k ≤ x) :
    (s.writeBytes a (s.firstRegs x)).readByte (offsetAddr a k.val) = s.V k := by
  have listed : k.val < (s.firstRegs x).length := by
    rw [State.length_firstRegs]
    exact Nat.lt_succ_of_le h
  rw [s.readByte_writeBytes a _ (length_firstRegs_le s x) k.val listed, State.getElem_firstRegs]

/-- The address after the `k`-th is the next one (R167). -/
theorem offsetAddr_add_one (k : Nat) : offsetAddr a k + 1 = offsetAddr a (k + 1) := by
  rw [offsetAddr, offsetAddr, BitVec.add_assoc, BitVec.ofNat_add]
  rfl

end

end Sys2Proof.Machine
end

section
open Sys2Proof Sys2Proof.Machine

/-- Settles O32: one write of the three digits at `I`. -/
theorem bcdStoresThreeDigits : Obligations.BcdStoresThreeDigits := by
  intro x s
  have value := (s.V x).isLt
  refine ⟨_, exec_ldB x s, ?hundreds, ?tens, ?ones, ?rest, (OnlyWrites.writeBytes _ _).then_advance⟩
  case hundreds => exact toNat_mem_read_bcd s s.i (k := 0) (by simp [bcdDigits]) rfl (by omega)
  case tens => exact toNat_mem_read_bcd s s.i (k := 1) (by simp [bcdDigits]) rfl (by omega)
  case ones => exact toNat_mem_read_bcd s s.i (k := 2) (by simp [bcdDigits]) rfl (by omega)
  case rest => exact fun c outside => s.mem_read_writeBytes_of_ne s.i (bcdDigits (s.V x)) c outside

/-- Settles O33: one write of the first registers at `I`. -/
theorem dumpStoresFirstRegisters : Obligations.DumpStoresFirstRegisters := by
  intro x s
  refine ⟨_, exec_ldMemVx x s, ?stored, ?rest, (OnlyWrites.writeBytes _ _).then_advance⟩
  case stored =>
    intro k hk
    rw [State.advance_mem, State.read_mod_eq]
    exact readByte_dump s s.i hk
  case rest =>
    intro c outside
    refine s.mem_read_writeBytes_of_ne s.i _ c fun k hk => ?_
    rw [State.length_firstRegs] at hk
    exact outside ⟨k, hk.trans_le x.isLt⟩ (Nat.le_of_lt_succ hk)

/-- Settles O34: each listed register is the byte at its offset from `I`. -/
theorem loadFillsFirstRegisters : Obligations.LoadFillsFirstRegisters := by
  intro x s
  refine ⟨_, exec_ldVxMem x s, fun k hk => ?_, (OnlyWrites.loadRegs _ _).then_advance⟩
  rw [State.advance_V, State.V_loadRegs, if_pos hk, State.read_mod_eq]

/-- Settles O35: the fetch reads the memory the dump wrote, at two neighbouring offsets. -/
theorem storeIsSeenByTheNextFetch : Obligations.StoreIsSeenByTheNextFetch := by
  intro x k s t lt done
  cases (exec_ldMemVx x s).symm.trans done
  have next : (k + 1).val = k.val + 1 := Fin.val_add_one_of_lt (lt.trans_le (Fin.le_last x))
  have high := readByte_dump s s.i lt.le
  have low := readByte_dump s s.i (k := k + 1) (x := x) (Fin.add_one_le_of_lt lt)
  rw [next, ← offsetAddr_add_one] at low
  exact congrArg₂ wordOfBytes high low

end

section
/-! THEOREMS. `DRW`: the bytes it draws are the sprite of R181, and drawing twice restores the buffer
(spec/43_display.md R181 to R188). -/

namespace Sys2Proof.Machine

section
variable (s : State) (x y : Reg) (n : Nibble)

/-- The rows of a sprite are the bytes from `I` on (R167, R186). -/
theorem getElem?_readBytes (a : Word) (k r : Nat) (row : Byte) :
    (s.readBytes a k)[r]? = some row ↔ r < k ∧ s.mem.read ((a.toNat + r) % 4096) = row := by
  rw [State.read_mod_eq, State.readBytes, List.getElem?_map, Option.map_eq_some_iff]
  simp only [List.getElem?_eq_some_iff, List.length_range, List.getElem_range]
  constructor
  · rintro ⟨_, ⟨lt, rfl⟩, rfl⟩
    exact ⟨lt, rfl⟩
  · rintro ⟨lt, rfl⟩
    exact ⟨r, ⟨lt, rfl⟩, rfl⟩

/-- The pixels `DRW` covers are those under the sprite (R181, R184). -/
theorem spriteCovers_iff_underSprite (px : Fin 64) (py : Fin 32) :
    spriteCovers (s.V x) (s.V y) (s.readBytes s.i n.toNat) px py = true ↔ underSprite s x y n px py := by
  rw [spriteCovers_iff, underSprite]
  simp only [getElem?_readBytes]
  constructor
  · rintro ⟨r, c, row, ⟨hr, rfl⟩, hc, hx, hy, lit⟩
    exact ⟨r, c, hr, hc, hx, hy, lit⟩
  · rintro ⟨r, c, hr, hc, hx, hy, lit⟩
    exact ⟨r, c, _, ⟨hr, rfl⟩, hc, hx, hy, lit⟩

/-- The collision flag of `DRW` (R183, R186). -/
theorem hit_spriteDraw : (s.spriteDraw x y n).hit = true ↔
    ∃ px py, underSprite s x y n px py ∧ s.fb.pixel px py = true := by
  rw [State.spriteDraw, hit_drawSprite]
  simp only [spriteCovers_iff_underSprite]

end

section
variable (fb : Framebuffer) (x y : Byte) (rows : List Byte)

/-- A second draw inverts the same pixels again (R188). -/
theorem drawSprite_drawSprite : ((fb.drawSprite x y rows).fb.drawSprite x y rows).fb = fb := by
  apply Framebuffer.ext_pixel
  intro px py
  rw [pixel_drawSprite, pixel_drawSprite, Bool.xor_assoc, Bool.xor_self, Bool.xor_false]

/-- A covered pixel that is lit after the first draw was unlit before it (R188). -/
theorem covered_and_lit_iff (px : Fin 64) (py : Fin 32) :
    (spriteCovers x y rows px py = true ∧ (fb.drawSprite x y rows).fb.pixel px py = true) ↔
      fb.pixel px py = false ∧ (fb.drawSprite x y rows).fb.pixel px py = true := by
  rw [pixel_drawSprite]
  cases fb.pixel px py <;> simp

end

end Sys2Proof.Machine
end

section
open Sys2Proof Sys2Proof.Machine

/-- Settles O37: pixel by pixel the draw is an exclusive or with the sprite, and the flag is written last. -/
theorem drawXorsSpriteAndReportsCollision : Obligations.DrawXorsSpriteAndReportsCollision := by
  intro x y n s
  refine ⟨_, exec_drw x y n s, ?inside, ?outside, rfl, ?collides, ?clear,
    ((OnlyWrites.showFrame _).then_setFlag _).then_advance⟩
  case inside =>
    intro px py under
    refine (pixel_drawSprite _ _ _ _ px py).trans ?_
    rw [(spriteCovers_iff_underSprite s x y n px py).2 under, Bool.xor_true]
  case outside =>
    intro px py bare
    refine (pixel_drawSprite _ _ _ _ px py).trans ?_
    rw [Bool.eq_false_iff.2 (mt (spriteCovers_iff_underSprite s x y n px py).1 bare), Bool.xor_false]
  case collides =>
    intro lit
    rw [setFlag_advance_V_VF, (hit_spriteDraw s x y n).2 lit]
    rfl
  case clear =>
    intro none
    rw [setFlag_advance_V_VF, Bool.eq_false_iff.2 (mt (hit_spriteDraw s x y n).1 none)]
    rfl

/-- Settles O38: both draws cover the same pixels, so the second undoes the first and hits what the first
lit. -/
theorem drawingTwiceRestoresTheBuffer : Obligations.DrawingTwiceRestoresTheBuffer := by
  intro fb x y rows
  refine ⟨drawSprite_drawSprite fb x y rows, ?_⟩
  rw [hit_drawSprite]
  simp only [covered_and_lit_iff]

end

section
/-! THEOREMS. The timers over a tick, over two ticks and over a step (spec/60_exceptions.md R221 to R224). -/

namespace Sys2Proof.Machine

section
variable {timer : Timer} {s t : State} {i : Instr}

/-- Two truncated subtractions make one (R223 (a)). -/
theorem decayed_decayed (acc : Rat) {a b c : Seconds} (total : c.val = a.val + b.val) :
    decayed (decayed acc a) b = decayed acc c := by
  have nonneg : (0 : Rat) ≤ b.val := b.property
  rw [decayed_eq, decayed_eq, decayed_eq, total]
  obtain stays | stops := le_total 0 (acc - 60 * a.val)
  · rw [max_eq_right stays]
    ring_nf
  · rw [max_eq_left stops, max_eq_left (by linarith), max_eq_left (by linarith)]

/-- A timer that a step leaves or ticks has not risen (R223 (d)). -/
theorem timer_le_of_tick {after : Timer} (inv : timer.Inv) (h : after = timer ∨ ∃ e, after = timer.tick e) :
    after.acc ≤ timer.acc ∧ after.val ≤ timer.val := by
  obtain rfl | ⟨e, rfl⟩ := h
  · exact ⟨le_refl _, BitVec.le_refl _⟩
  · exact tick_le inv e

theorem finishStep_dt_cases (s : State) : s.finishStep.dt = s.dt ∨ ∃ e, s.finishStep.dt = s.dt.tick e := by
  cases halted : s.halted with
  | true => exact .inl (finishStep_dt_of_halted halted)
  | false => exact .inr ⟨_, finishStep_dt_of_running halted⟩

theorem finishStep_st_cases (s : State) : s.finishStep.st = s.st ∨ ∃ e, s.finishStep.st = s.st.tick e := by
  cases halted : s.halted with
  | true => exact .inl (finishStep_st_of_halted halted)
  | false => exact .inr ⟨_, finishStep_st_of_running halted⟩

theorem exec_dt_of_ne (h : exec i s = .next t) (ne : ∀ x, i ≠ .ldDtVx x) : t.dt = s.dt := by
  cases i with
  | ldDtVx x => exact absurd rfl (ne x)
  | _ => exact (exec_onlyWrites h).delay (by simp [mayWrite])

theorem exec_st_of_ne (h : exec i s = .next t) (ne : ∀ x, i ≠ .ldStVx x) : t.st = s.st := by
  cases i with
  | ldStVx x => exact absurd rfl (ne x)
  | _ => exact (exec_onlyWrites h).sound (by simp [mayWrite])

/-- Before its tick a step that does not set a timer has left it as it was. -/
theorem step_timers (h : step s = .next t) : t = s ∨ ∃ u : State, t = u.finishStep ∧
    ((∀ x, decodeWord s.fetchWord ≠ .ok (.ldDtVx x)) → u.dt = s.dt) ∧
    ((∀ x, decodeWord s.fetchWord ≠ .ok (.ldStVx x)) → u.st = s.st) := by
  obtain ⟨-, same⟩ | ⟨-, -, polled⟩ | ⟨-, -, i, u, decoded, done, ticked⟩ | ⟨-, -, e, -, reported⟩ :=
    step_cases h
  · exact .inl same
  · exact .inr ⟨_, polled, fun _ => State.pollKeys_dt _, fun _ => State.pollKeys_st _⟩
  · exact .inr ⟨u, ticked,
      fun notSet => exec_dt_of_ne (s := s.beginStep) done fun x e => notSet x (e ▸ decoded),
      fun notSet => exec_st_of_ne (s := s.beginStep) done fun x e => notSet x (e ▸ decoded)⟩
  · exact .inr ⟨_, reported, fun _ => rfl, fun _ => rfl⟩

end

end Sys2Proof.Machine
end

section
open Sys2Proof Sys2Proof.Machine

/-- Settles O45: the truncated subtraction of `decayed_eq`, and the floor that `tick_inv` keeps. -/
theorem tickLosesSixtyASecond : Obligations.TickLosesSixtyASecond := by
  intro timer e inv
  have isFloor := (tick_inv inv e).isFloor
  have acc : (timer.tick e).acc = max 0 (timer.acc - 60 * e.val) := decayed_eq timer.acc e
  have value : (((timer.tick e).val.toNat : Nat) : Rat) = ((timer.tick e).acc.floor : Rat) := by
    exact_mod_cast congrArg (Int.cast (R := Rat)) isFloor
  refine ⟨fun lasts => ?_, fun stops => ?_, ?_, ?_⟩
  · rw [acc, max_eq_right (by linarith)]
  · rw [acc, max_eq_left (by linarith)]
  · rw [value]
    exact Rat.floor_le _
  · rw [value]
    exact_mod_cast Rat.lt_floor_add_one (timer.tick e).acc

/-- Settles O46: the accumulator by `decayed_decayed`, and the value is a function of it. -/
theorem ticksDependOnTotalTimeOnly : Obligations.TicksDependOnTotalTimeOnly := by
  intro timer a b c _ total
  have acc : decayed (timer.tick a).acc b = decayed timer.acc c := decayed_decayed timer.acc total
  rw [Timer.tick, acc]
  rfl

/-- Settles O47: a step that does not set a timer leaves it or ticks it. -/
theorem timersRiseOnlyWhenSet : Obligations.TimersRiseOnlyWhenSet := by
  intro s t inv h
  obtain rfl | ⟨u, rfl, delay, sound⟩ := step_timers h
  · exact ⟨fun _ => timer_le_of_tick inv.delay (.inl rfl), fun _ => timer_le_of_tick inv.sound (.inl rfl)⟩
  · exact ⟨fun notSet => timer_le_of_tick inv.delay (delay notSet ▸ finishStep_dt_cases u),
      fun notSet => timer_le_of_tick inv.sound (sound notSet ▸ finishStep_st_cases u)⟩

end

section
/-! THEOREMS. What an instruction and a step do not depend on: the schedule of inputs, and the dirty flag
(spec/10_state.md R38, spec/43_display.md R187). -/

namespace Sys2Proof.Machine

/-! ### A map on the next states -/

/-- The outcome with `f` applied to the next state, if there is one. -/
def onNext (f : State → State) :
    Host.Outcome State Fault Refusal → Host.Outcome State Fault Refusal
  | .next t    => .next (f t)
  | .fault r   => .fault r
  | .refused r => .refused r

section
variable {f g h k : State → State} {o p : Host.Outcome State Fault Refusal} {s t : State} {r : Refusal}

/-- Maps that compose alike state by state compose alike on outcomes. -/
theorem onNext_onNext (same : ∀ t, f (g t) = h (k t)) : onNext f (onNext g o) = onNext h (onNext k o) := by
  cases o with
  | next t => exact congrArg Host.Outcome.next (same t)
  | fault | refused => rfl

theorem onNext_eq_next (e : onNext f o = .next t) : ∃ u, o = .next u ∧ f u = t := by
  cases o with
  | next u => cases e; exact ⟨u, rfl, rfl⟩
  | fault | refused => cases e

theorem onNext_eq_refused (e : onNext f o = .refused r) : o = .refused r := by
  cases o with
  | refused => exact e
  | next | fault => cases e

theorem step_eq_onNext {i : Instr} (halted : s.halted = false) (wait : s.wait = false)
    (decoded : decodeWord s.fetchWord = .ok i) :
    step s = onNext State.finishStep (exec i s.beginStep) := by
  rw [step_of_decoded halted wait decoded]
  cases exec i s.beginStep <;> rfl

end

section
variable {i : Instr} (s : State)

/-! ### The schedule of inputs -/

/-- The machine with another schedule of inputs (log 1). -/
def State.withInputs (schedule : List StepInput) (s : State) : State := { s with inputs := schedule }

variable (schedule : List StepInput)

@[simp] theorem withInputs_stack : (s.withInputs schedule).stack = s.stack := rfl
@[simp] theorem withInputs_sp : (s.withInputs schedule).sp = s.sp := rfl

theorem withInputs_writeBytes (a : Word) (bs : List Byte) :
    (s.withInputs schedule).writeBytes a bs = (s.writeBytes a bs).withInputs schedule := by
  induction bs generalizing s a with
  | nil => rfl
  | cons b bs ih => exact ih (s.writeByte a b) (a + 1)

/-- An instruction that reads no input does the same under every schedule (R38). -/
theorem exec_withInputs (h : readsInputs i = false) :
    exec i (s.withInputs schedule) = onNext (State.withInputs schedule) (exec i s) := by
  cases i with
  | skp | sknp | ldVxK | rnd => cases h
  | ret =>
    rw [exec_ret, exec_ret, execRet, execRet, withInputs_stack]
    cases s.stack.getLast? <;> rfl
  | call =>
    rw [exec_call, exec_call, execCall, execCall, withInputs_sp]
    split <;> rfl
  | ldB =>
    rw [exec_ldB, withInputs_writeBytes]
    rfl
  | ldMemVx =>
    rw [exec_ldMemVx, withInputs_writeBytes]
    rfl
  | _ => rfl

/-! ### The dirty flag -/

theorem cleanFrame_writeBytes (a : Word) (bs : List Byte) :
    s.cleanFrame.writeBytes a bs = (s.writeBytes a bs).cleanFrame := by
  induction bs generalizing s a with
  | nil => rfl
  | cons b bs ih => exact ih (s.writeByte a b) (a + 1)

/-- An instruction sets the dirty flag or leaves it, and never reads it (R28, R187). -/
theorem exec_cleanFrame (i : Instr) :
    onNext State.cleanFrame (exec i s.cleanFrame) = onNext State.cleanFrame (exec i s) := by
  cases i with
  | ret =>
    rw [exec_ret, exec_ret, execRet, execRet, State.cleanFrame_stack]
    cases s.stack.getLast? <;> rfl
  | call =>
    rw [exec_call, exec_call, execCall, execCall, State.cleanFrame_sp]
    split <;> rfl
  | skp x =>
    rw [exec_skp, exec_skp, execSkp, execSkp, State.cleanFrame_V]
    cases keyIndex (s.V x) <;> rfl
  | sknp x =>
    rw [exec_sknp, exec_sknp, execSknp, execSknp, State.cleanFrame_V]
    cases keyIndex (s.V x) <;> rfl
  | ldB =>
    rw [exec_ldB, cleanFrame_writeBytes]
    rfl
  | ldMemVx =>
    rw [exec_ldMemVx, cleanFrame_writeBytes]
    rfl
  | _ => rfl

theorem finishStep_cleanFrame : s.cleanFrame.finishStep = s.finishStep.cleanFrame := by
  unfold State.finishStep
  rw [State.cleanFrame_halted]
  split <;> rfl

theorem pollKeys_cleanFrame : s.cleanFrame.pollKeys = s.pollKeys.cleanFrame := by
  have sameKeys : s.cleanFrame.newlyPressed = s.newlyPressed := rfl
  unfold State.pollKeys
  rw [sameKeys]
  cases s.newlyPressed <;> rfl

/-- A step from a consumed frame is the same step up to the dirty flag (R187). -/
theorem step_cleanFrame :
    onNext State.cleanFrame (step s.cleanFrame) = onNext State.cleanFrame (step s) := by
  cases halted : s.halted with
  | true =>
    rw [step_of_halted halted, step_of_halted (s := s.cleanFrame) halted]
    rfl
  | false =>
    cases wait : s.wait with
    | true =>
      have poll :
          s.cleanFrame.beginStep.pollKeys.finishStep = s.beginStep.pollKeys.finishStep.cleanFrame := by
        rw [← finishStep_cleanFrame, ← pollKeys_cleanFrame]
        rfl
      rw [step_of_wait halted wait, step_of_wait (s := s.cleanFrame) halted wait, poll]
      rfl
    | false =>
      cases decoded : decodeWord s.fetchWord with
      | error e =>
        rw [step_of_unrecognized halted wait decoded,
          step_of_unrecognized (s := s.cleanFrame) halted wait decoded]
        have same := finishStep_cleanFrame (s.beginStep.unrecognized s.fetchWord)
        exact (congrArg (fun u => onNext State.cleanFrame (.next u)) same :)
      | ok i =>
        have commute (t : State) : t.finishStep.cleanFrame = t.cleanFrame.finishStep :=
          (finishStep_cleanFrame t).symm
        rw [step_eq_onNext halted wait decoded, step_eq_onNext (s := s.cleanFrame) halted wait decoded,
          onNext_onNext commute, onNext_onNext commute]
        exact congrArg (onNext State.finishStep) (exec_cleanFrame s.beginStep i)

end

end Sys2Proof.Machine
end

section
/-! THEOREMS. The exported frame, and the values right after reset (spec/43_display.md R187, spec/10_state.md
R27, R40). -/

namespace Sys2Proof.Machine

/-- The frame is the rows one after the other (R27). -/
theorem frame_eq_flatten (s : State) : s.frame = s.fb.flatten.toList := by
  rw [State.frame, Vector.flatten, Vector.toList, Vector.toList, Array.toList_flatten, Array.toList_map,
    List.map_map]
  rfl

end Sys2Proof.Machine
end

section
open Sys2Proof Sys2Proof.Machine

/-- Settles O51: replacing the schedule commutes with an instruction that reads no input. -/
theorem onlyFourInstructionsReadTheInputs : Obligations.OnlyFourInstructionsReadTheInputs := by
  intro i s t schedule reads done
  refine (exec_withInputs s schedule reads).trans ?_
  rw [done]
  rfl

/-- Settles O56: the two steps agree up to the dirty flag, so a next state has its counterpart and a refusal
is the same refusal. -/
theorem consumingTheFrameIsInvisible : Obligations.ConsumingTheFrameIsInvisible := by
  intro s
  have alike := step_cleanFrame s
  constructor
  · intro t done
    rw [done] at alike
    exact onNext_eq_next alike
  · intro r refused
    rw [refused] at alike
    exact onNext_eq_refused alike

/-- Settles O55: element `y * 64 + x` of the rows put one after the other is element `x` of row `y`. -/
theorem consumeFrameOnlyClearsDirty : Obligations.ConsumeFrameOnlyClearsDirty := by
  intro s
  have frame : s.consumeFrame.1 = s.fb.flatten.toList := frame_eq_flatten s
  refine ⟨rfl, by rw [frame, Vector.length_toList], fun x y => ?_⟩
  have inside : y.val * 64 + x.val < 32 * 64 := by omega
  have row : (y.val * 64 + x.val) / 64 = y.val := by omega
  have column : (y.val * 64 + x.val) % 64 = x.val := by omega
  rw [frame, Vector.getElem?_toList, Vector.getElem?_flatten, dif_pos inside]
  simp only [row, column]
  rfl

/-- Settles O57: the values of `State.reset`; the font bytes and the zeros past them are read from its empty
memory list. -/
theorem resetValues : Obligations.ResetValues := by
  refine ⟨?registers, rfl, rfl, rfl, ?zeros, ?font, pixel_blank, rfl, rfl, rfl, rfl, rfl, ?keys, rfl, rfl⟩
  case registers => exact fun x => Vector.getElem_replicate _
  case zeros => exact fun a h => resetByte_past_font h
  case font => decide
  case keys => exact fun k => Vector.getElem_replicate _

end
